-- ==== Sys2Proof/Word.lean ====
section
/-! DEFINITION. The word types of KWLD (00_scope.md R7, R8; 10_state.md R18; 20_memory.md R37). -/

namespace Sys2Proof

/-- One byte lane of the host bus (20_memory.md R41). -/
abbrev Byte := BitVec 8

/-- A register, a bus data word or a command word: 64 bits (10_state.md R18, 30_encoding.md R51). -/
abbrev Word := BitVec 64

/-- A byte address of the host bus space: 24 bits (20_memory.md R37). -/
abbrev Addr := BitVec 24

/-- One beat of a sample port: 32 bits (20_memory.md R45). -/
abbrev Beat := BitVec 32

/-- A binary64 value, held as its bit pattern (00_scope.md R7, R11; 30_encoding.md R61). -/
abbrev F64 := BitVec 64

/-- A binary32 value, held as its bit pattern (00_scope.md R11). -/
abbrev F32 := BitVec 32

end Sys2Proof
end

