-- ==== Sys2Proof/Syntax.lean ====
section
/-! DEFINITION. The operations of KWLD-1: one constructor of Instr per row of opcode_table.json (00_scope.md R2,
30_encoding.md R54), the commands, and the host's events (20_memory.md R46). -/

namespace Sys2Proof

/-- The seven commands of 30_encoding.md R54, with the operand fields of their format (R52, R53). -/
inductive Command where
  | nop
  /-- Format C: `fs` is the sample rate in Hz, `chm1` the channel count less one. -/
  | configure (fs : BitVec 20) (chm1 : BitVec 4)
  | aReset
  | aFinalize
  | dSetTarget
  | dFlush
  | dReset
  deriving DecidableEq, Repr

/-- The operations of KWLD-1: the seven commands, the two bus operations and the two port beats
(00_scope.md R2; opcode_table.json, row by row). -/
inductive Instr where
  /-- NOP (45_control.md R100). -/
  | nop
  /-- CONFIGURE (45_control.md R101). -/
  | configure (fs : BitVec 20) (chm1 : BitVec 4)
  /-- A_RESET (42_gate_aggregate.md R79). -/
  | aReset
  /-- A_FINALIZE (42_gate_aggregate.md R80). -/
  | aFinalize
  /-- D_SET_TARGET (43_gain_mapper.md R87). -/
  | dSetTarget
  /-- D_FLUSH (44_dynamics.md R94). -/
  | dFlush
  /-- D_RESET (44_dynamics.md R95). -/
  | dReset
  /-- REG_READ: `MemRead(addr, n)` (20_memory.md R39). -/
  | regRead (addr : Addr) (n : Nat)
  /-- REG_WRITE: `MemWrite(addr, n, v)` (20_memory.md R40). -/
  | regWrite (addr : Addr) (n : Nat) (v : Word)
  /-- A_BEAT (40_kweight.md R63). -/
  | aBeat (w : Beat)
  /-- P_BEAT (44_dynamics.md R88). -/
  | pBeat (w : Beat)
  deriving DecidableEq, Repr

/-- A command as an operation of the table. -/
def Command.toInstr : Command → Instr
  | .nop => .nop
  | .configure fs chm1 => .configure fs chm1
  | .aReset => .aReset
  | .aFinalize => .aFinalize
  | .dSetTarget => .dSetTarget
  | .dFlush => .dFlush
  | .dReset => .dReset

/-- What reaches KWLD's pins, one event at a time (20_memory.md R46): the four kinds of access, the host's taking of a
POUT word, and the hardware reset line (70_reset_and_hazards.md R120). -/
inductive HostEvent where
  | busRead (addr : Addr) (n : Nat)
  | busWrite (addr : Addr) (n : Nat) (v : Word)
  | beatA (w : Beat)
  | beatP (w : Beat)
  | take
  | hardReset
  deriving DecidableEq, Repr

/-- Why a command word is no command (30_encoding.md R55). -/
inductive CmdReject where
  /-- The OPC value is not in the opcode map. -/
  | illegalOpcode
  /-- RSV is not zero, or a format Z word has OPERANDS not zero. -/
  | reservedBits
  deriving DecidableEq, Repr

/-- Why a host event is no operation of the opcode table. -/
inductive EventReject where
  /-- The host takes a word of POUT (20_memory.md R45). -/
  | takesWord
  /-- The hardware reset line (70_reset_and_hazards.md R120). -/
  | resetLine
  deriving DecidableEq, Repr

end Sys2Proof
end

