-- ==== Sys2Proof/WellFormed.lean ====
section
/-! DEFINITION. Which operations are well formed: those that are the operation their own transaction stands for. -/

namespace Sys2Proof

/-- The byte address of the command register CMD (10_state.md R18, R24). -/
def cmdAddr : Addr := 0x000030#24

/-- A word that 30_encoding.md R54 matches: one of the seven `match / mask` rows. -/
def isCommandWord (cw : Word) : Bool :=
  cw == 0x0000000000000000#64 || cw &&& 0xFFFFFFFF000000FF#64 == 0x0000000000000001#64 ||
  cw == 0x0000000000000002#64 || cw == 0x0000000000000003#64 || cw == 0x0000000000000010#64 ||
  cw == 0x0000000000000011#64 || cw == 0x0000000000000012#64

/-- An 8-byte REG_WRITE of a legal command word to CMD is that command (30_encoding.md R54, 45_control.md R99): the
table gives it the command's row, so it is not well formed as a plain REG_WRITE. Every value of every operand field is
an encoding (R55), so nothing else is ill formed. -/
def Instr.wf : Instr → Bool
  | .regWrite addr n v => !(addr == cmdAddr && n == 8 && isCommandWord v)
  | .nop | .configure _ _ | .aReset | .aFinalize | .dSetTarget | .dFlush | .dReset
  | .regRead _ _ | .aBeat _ | .pBeat _ => true

end Sys2Proof
end

