-- ==== Sys2Proof/Decode.lean ====
section
/-! DEFINITION. Decoding of command words and host events (30_encoding.md R51 to R55; 45_control.md R99), and the
encoder, written from the same tables. -/

namespace Sys2Proof

/-- OPC, bits 7..0 of a command word (30_encoding.md R51). -/
def opcOf (cw : Word) : BitVec 8 := cw.extractLsb' 0 8

/-- OPERANDS, bits 31..8 (30_encoding.md R51). -/
def operandsOf (cw : Word) : BitVec 24 := cw.extractLsb' 8 24

/-- RSV, bits 63..32 (30_encoding.md R51). -/
def rsvOf (cw : Word) : BitVec 32 := cw.extractLsb' 32 32

/-- FS, bits 31..12 of a format C word (30_encoding.md R52, R53). -/
def fsOf (cw : Word) : BitVec 20 := cw.extractLsb' 12 20

/-- CHM1, bits 11..8 of a format C word (30_encoding.md R52, R53). -/
def chm1Of (cw : Word) : BitVec 4 := cw.extractLsb' 8 4

/-- The format Z command of an opcode, or none (30_encoding.md R54; CONFIGURE is format C). -/
def formatZ (opc : BitVec 8) : Option Command :=
  if opc = 0x00#8 then some .nop
  else if opc = 0x02#8 then some .aReset
  else if opc = 0x03#8 then some .aFinalize
  else if opc = 0x10#8 then some .dSetTarget
  else if opc = 0x11#8 then some .dFlush
  else if opc = 0x12#8 then some .dReset
  else none

/-- The decoding checks of DISPATCH, in its order (45_control.md R99; 30_encoding.md R55): the opcode, the reserved
bits, the operand bits of format Z. -/
def decodeCommand (cw : Word) : Except CmdReject Command :=
  if opcOf cw = 0x01#8 then
    if rsvOf cw = 0#32 then .ok (.configure (fsOf cw) (chm1Of cw)) else .error .reservedBits
  else
    match formatZ (opcOf cw) with
    | none => .error .illegalOpcode
    | some c => if rsvOf cw = 0#32 ∧ operandsOf cw = 0#24 then .ok c else .error .reservedBits

/-- The operation a host event stands for. An 8-byte write of a legal command word to CMD is the command; every other
bus access and beat is the bus operation or beat itself (30_encoding.md R54). The two events of no row are rejected
by name. -/
def decode : HostEvent → Except EventReject Instr
  | .busRead addr n => .ok (.regRead addr n)
  | .busWrite addr n v =>
    if addr = cmdAddr ∧ n = 8 then
      match decodeCommand v with
      | .ok c => .ok c.toInstr
      | .error _ => .ok (.regWrite addr n v)
    else .ok (.regWrite addr n v)
  | .beatA w => .ok (.aBeat w)
  | .beatP w => .ok (.pBeat w)
  | .take => .error .takesWord
  | .hardReset => .error .resetLine

/-- The opcode of a command (30_encoding.md R54). -/
def Command.opc : Command → BitVec 8
  | .nop => 0x00#8
  | .configure _ _ => 0x01#8
  | .aReset => 0x02#8
  | .aFinalize => 0x03#8
  | .dSetTarget => 0x10#8
  | .dFlush => 0x11#8
  | .dReset => 0x12#8

/-- The OPERANDS field of a command: FS above CHM1 in format C, zero in format Z (30_encoding.md R52). -/
def Command.operands : Command → BitVec 24
  | .configure fs chm1 => fs ++ chm1
  | .nop | .aReset | .aFinalize | .dSetTarget | .dFlush | .dReset => 0#24

/-- The command word: RSV, OPERANDS, OPC (30_encoding.md R51). -/
def encodeCommand (c : Command) : Word := 0#32 ++ c.operands ++ c.opc

/-- The transaction of a command: an 8-byte write of its word to CMD (30_encoding.md R62). -/
def commandEvent (c : Command) : HostEvent := .busWrite cmdAddr 8 (encodeCommand c)

/-- The transaction of an operation (30_encoding.md R54, R62). -/
def encode : Instr → HostEvent
  | .nop => commandEvent .nop
  | .configure fs chm1 => commandEvent (.configure fs chm1)
  | .aReset => commandEvent .aReset
  | .aFinalize => commandEvent .aFinalize
  | .dSetTarget => commandEvent .dSetTarget
  | .dFlush => commandEvent .dFlush
  | .dReset => commandEvent .dReset
  | .regRead addr n => .busRead addr n
  | .regWrite addr n v => .busWrite addr n v
  | .aBeat w => .beatA w
  | .pBeat w => .beatP w

/-- The transaction that a table row's bits stand for: 64 bits are a command word, written to CMD; 32 bits are a beat,
offered to the A port. The bits alone do not tell the A_BEAT row from the P_BEAT row, and the bus rows have no bits
(opcode_table.json; log 11). -/
def tableEvent (nbits w : Nat) : Option HostEvent :=
  if nbits = 64 then some (.busWrite cmdAddr 8 (BitVec.ofNat 64 w))
  else if nbits = 32 then some (.beatA (BitVec.ofNat 32 w))
  else none

/-- The operation the decoder reads from a table row's bits (log 11). -/
def decodeTableWord (nbits w : Nat) : Option Instr :=
  match tableEvent nbits w with
  | none => none
  | some e => (decode e).toOption

end Sys2Proof
end

