-- ==== Sys2Proof/Config.lean ====
section
/-! DEFINITION. What a build of KWLD fixes (00_scope.md R6), and the values the spec leaves open
(00_scope.md R10, R13; 93_implementation_defined.md U1, U3). -/

namespace Sys2Proof.Config

/-- The implementation parameters of 00_scope.md R6, except `MATH` (below). A build fixes them; no operation of the
machine writes them. -/
structure Params where
  /-- `CH_MAX`: the most channels. -/
  chMax : Nat
  /-- `FS_MIN`: the lowest sample rate, in Hz. -/
  fsMin : Nat
  /-- `FS_MAX`: the highest sample rate, in Hz. -/
  fsMax : Nat
  /-- `BLK_DEPTH`: the entries of block memory. -/
  blkDepth : Nat
  /-- `RING_DEPTH`: the samples the ring buffer can hold. -/
  ringDepth : Nat
  /-- `HP_FC`: the high-pass cutoff, in Hz. -/
  hpFc : F64
  /-- `SH_F0`: the shelf's centre frequency, in Hz. -/
  shF0 : F64
  /-- `SH_GAIN_DB`: the shelf's gain, in dB. -/
  shGainDb : F64
  /-- `SH_S`: the shelf's slope. -/
  shS : F64
  /-- `ATK_T`: the attack time, in seconds. -/
  atkT : F64
  /-- `REL_T`: the release time, in seconds. -/
  relT : F64
  deriving DecidableEq, Repr

/-- The constraint column of 00_scope.md R6. (RING_DEPTH's constraint is 'for every rate to be accepted': CONFIGURE
itself rejects what does not fit, 45_control.md R101.) -/
abbrev Params.Legal (p : Params) : Prop :=
  1 ≤ p.chMax ∧ p.chMax ≤ 16 ∧ 10 ≤ p.fsMin ∧ p.fsMin ≤ p.fsMax ∧ p.fsMax ≤ 1048575 ∧
    2 ≤ p.blkDepth ∧ p.blkDepth ≤ 1966080

/-- The default column of 00_scope.md R6: a KWLD built to the spec, unless a build states otherwise. -/
def defaultBuild : Params where
  chMax := 8
  fsMin := 8000
  fsMax := 192000
  blkDepth := 65536
  ringDepth := 614400
  hpFc := 0x4043000000000000#64      -- 38.0
  shF0 := 0x4097700000000000#64      -- 1500.0
  shGainDb := 0x4010000000000000#64  -- 4.0
  shS := 0x3FF0000000000000#64       -- 1.0
  atkT := 0x3F50624DD2F1A9FC#64      -- 0.001
  relT := 0x3F847AE147AE147B#64      -- 0.010

/-- FREE VALUE (93_implementation_defined.md U1; log 3): the sign and the 51 fraction bits below the quiet bit of a NaN
that arithmetic, or the widening of a signalling binary32 NaN, produces. The first argument numbers the host event
(State's `nanSeq`), the second says which operation of that event. -/
opaque freeNaN : Nat → List Nat → BitVec 52

/-- FREE FUNCTION (00_scope.md R13, U3; log 4): `MATH.exp` where R13 states no result. -/
opaque mathExp : F64 → F64

/-- FREE FUNCTION (00_scope.md R13, U3; log 4): `MATH.sin` where R13 states no result. -/
opaque mathSin : F64 → F64

/-- FREE FUNCTION (00_scope.md R13, U3; log 4): `MATH.cos` where R13 states no result. -/
opaque mathCos : F64 → F64

/-- FREE FUNCTION (00_scope.md R13, U3; log 4): `MATH.pow` where R13 states no result. -/
opaque mathPow : F64 → F64 → F64

/-- FREE FUNCTION (00_scope.md R13, U3; log 4): `MATH.log10` where R13 states no result. -/
opaque mathLog10 : F64 → F64

end Sys2Proof.Config
end

