-- ==== Sys2Proof/Machine/State.lean ====
section
/-! DEFINITION. The state of KWLD (10_state.md R36), its reset value (70_reset_and_hazards.md R120), and the reasons a
step could stop. State is plain data, grouped by the engine that owns it (60_exceptions.md R117). -/

namespace Sys2Proof.Machine

/-- KWLD never halts and no operation stops it (93_implementation_defined.md section 1; 60_exceptions.md R108: KWLD goes
on accepting operations). Its errors are next states with an error record, so there is no fault at all. -/
inductive Fault where
  deriving DecidableEq, Repr

/-- Why `exec` gives an operation no meaning. No operation of this model is refused. -/
inductive Refusal where
  /-- Raised by an arm of `exec` whose operation has no meaning yet (safe: the model stops). No arm raises it. -/
  | notModelled (mnemonic : String)
  deriving DecidableEq, Repr

/-- The 42 registers of 10_state.md R18, in offset order. -/
inductive Reg where
  | id | param0 | param1 | ctrl | irqEn | status | cmd | cfgFs | cfgCh | blockSize | hopSize | rampFrames
  | aFrames | aNblk | aNemit | pFrames
  | hpAlpha | bqB0 | bqB1 | bqB2 | bqA1 | bqA2
  | absThr | relFactor | lufsCal | limThr | atkCoef | relCoef | minGainDb | maxGainDb
  | tgtMeas | tgtRef | resLufs | resNabs | resNrel | resGated
  | dCurGain | dTgtGain | dEnv | dRemain | aPart | pPart
  deriving DecidableEq, Repr

/-- The nine sticky STATUS bits, at [8] to [16] (10_state.md R23). -/
inductive Sticky where
  | done | cmdErr | wrErr | busErr | blkOvf | unsup | aDrop | pPass | partDrop
  deriving DecidableEq, Repr

/-- The three classes of 60_exceptions.md R106 that record an error. -/
inductive ErrClass where
  | cmd | wr | bus
  deriving DecidableEq, Repr

/-- The fourteen errors of 60_exceptions.md R107. -/
inductive Err where
  | illegalOpcode | reservedBits | notConfigured | badRate | badChannels | ringTooSmall | sessionClosed
  | wrSessionBusy | wrRange | wrNotConfigured
  | busSize | busMisaligned | busUnmapped | busReadonly
  deriving DecidableEq, Repr

/-- The stored fields of STATUS (10_state.md R23). ACTIVE is computed, not stored (R36), and the reserved bits read 0,
so neither has a field; `statusWord` gives the register as the host reads it. -/
structure Status where
  configured : Bool
  aOpen : Bool
  resValid : Bool
  tgtSet : Bool
  done : Bool
  cmdErr : Bool
  wrErr : Bool
  busErr : Bool
  blkOvf : Bool
  unsup : Bool
  aDrop : Bool
  pPass : Bool
  partDrop : Bool
  errCode : BitVec 8
  deriving DecidableEq, Repr

/-- CFG_FS, CFG_CH and the size registers (10_state.md R25, R26). -/
structure Cfg where
  fs : Word
  ch : Word
  blockSize : Word
  hopSize : Word
  rampFrames : Word
  deriving DecidableEq, Repr

/-- The filter coefficients (10_state.md R28). -/
structure Coeffs where
  hpAlpha : F64
  b0 : F64
  b1 : F64
  b2 : F64
  a1 : F64
  a2 : F64
  deriving DecidableEq, Repr

/-- The gate, limiter and mapper constants (10_state.md R29). -/
structure Consts where
  absThr : F64
  relFactor : F64
  lufsCal : F64
  limThr : F64
  atkCoef : F64
  relCoef : F64
  minGainDb : F64
  maxGainDb : F64
  deriving DecidableEq, Repr

/-- TGT_MEAS and TGT_REF (10_state.md R30). -/
structure Target where
  meas : F64
  ref : F64
  deriving DecidableEq, Repr

/-- The result registers (10_state.md R31). -/
structure Results where
  lufs : F64
  nabs : Word
  nrel : Word
  gated : F64
  deriving DecidableEq, Repr

/-- One channel's filter state: FS_X1, FS_Y1, FS_S1, FS_S2 (10_state.md R33). -/
structure FilterState where
  x1 : F64
  y1 : F64
  s1 : F64
  s2 : F64
  deriving DecidableEq, Repr

/-- What the analysis engine owns besides block memory (60_exceptions.md R117): the filter states, RB, APART and the
A counters (10_state.md R27, R33, R35). A_PART is the length of `part` (R35; log 7). The counters are naturals
(10_state.md R16; log 6). -/
structure Analysis where
  filter : List FilterState
  rb : List (List F64)
  part : List F64
  frames : Nat
  nblk : Nat
  nemit : Nat
  deriving DecidableEq, Repr

/-- What the dynamics engine owns (60_exceptions.md R117): the gain state, PPART and P_FRAMES (10_state.md R27, R32,
R35). P_PART is the length of `part` (R35; log 7). -/
structure Dynamics where
  curGain : F64
  tgtGain : F64
  env : F64
  remain : Word
  part : List F64
  frames : Nat
  deriving DecidableEq, Repr

/-- Block memory as bytes at their bus addresses, in canonical form: addresses strictly rising, no byte equal to what an
unlisted address reads as (`Memory.wf`; 10_state.md R34, 20_memory.md R41; log 5). -/
abbrev Memory := List Host.Cell

/-- What a bus read returns: a 64-bit word, and OK or ERR (20_memory.md R39). -/
structure BusResp where
  data : Word
  ok : Bool
  deriving DecidableEq, Repr

/-- The state of KWLD. The fields down to `pout` are 10_state.md R36's; the rest are the model's own. -/
structure State where
  status : Status
  ctrl : Word
  irqEn : Word
  cfg : Cfg
  coef : Coeffs
  con : Consts
  tgt : Target
  res : Results
  ana : Analysis
  mem : Memory
  dyn : Dynamics
  pout : List Beat
  /-- The build's parameters (00_scope.md R6): configuration, which no operation writes (log 1). -/
  build : Config.Params
  /-- The host events still to come, in the host's order (20_memory.md R46; log 2). -/
  events : List HostEvent
  /-- What the last bus read returned to the host (20_memory.md R39; log 8). -/
  busResp : Option BusResp
  /-- The word that the host's last taking gave it (20_memory.md R45; log 8). -/
  taken : Option Beat
  /-- How many host events have drawn free NaN values (93_implementation_defined.md U1; log 3). -/
  nanSeq : Nat
  deriving DecidableEq, Repr

/-- The binary64 value +0.0. -/
def f64Zero : F64 := 0x0000000000000000#64

/-- The binary64 value 1.0 (00_scope.md R8). -/
def f64One : F64 := 0x3FF0000000000000#64

/-- The binary64 value -inf, the invalid sentinel (42_gate_aggregate.md R84). -/
def f64NegInf : F64 := 0xFFF0000000000000#64

/-- STATUS = 0 (70_reset_and_hazards.md R120). -/
def Status.reset : Status where
  configured := false
  aOpen := false
  resValid := false
  tgtSet := false
  done := false
  cmdErr := false
  wrErr := false
  busErr := false
  blkOvf := false
  unsup := false
  aDrop := false
  pPass := false
  partDrop := false
  errCode := 0#8

/-- The reset values of 10_state.md R29. -/
def Consts.reset : Consts where
  absThr := 0x3E7F791EC6E1D5B7#64
  relFactor := 0x3FB999999999999A#64
  lufsCal := 0x3FE61CAC083126E9#64
  limThr := 0x3FEE666666666666#64
  atkCoef := f64Zero
  relCoef := f64Zero
  minGainDb := 0xC038000000000000#64
  maxGainDb := 0x4038000000000000#64

/-- A channel's filter state with all history zero (40_kweight.md R68). -/
def FilterState.zero : FilterState where
  x1 := f64Zero
  y1 := f64Zero
  s1 := f64Zero
  s2 := f64Zero

/-- An empty analysis session: zero filter history in every channel, empty RB and APART, zero counters
(42_gate_aggregate.md R79; 70_reset_and_hazards.md R120). -/
def Analysis.fresh (chMax : Nat) : Analysis where
  filter := List.replicate chMax FilterState.zero
  rb := []
  part := []
  frames := 0
  nblk := 0
  nemit := 0

/-- The dynamics engine at identity (70_reset_and_hazards.md R120; 45_control.md R101). -/
def Dynamics.identity : Dynamics where
  curGain := f64One
  tgtGain := f64One
  env := f64One
  remain := 0#64
  part := []
  frames := 0

/-- The machine of build `p` right after hardware reset (70_reset_and_hazards.md R120). -/
def State.resetOf (p : Config.Params) : State where
  status := Status.reset
  ctrl := 0#64
  irqEn := 0#64
  cfg := { fs := 0#64, ch := 0#64, blockSize := 0#64, hopSize := 0#64, rampFrames := 0#64 }
  coef := { hpAlpha := f64Zero, b0 := f64Zero, b1 := f64Zero, b2 := f64Zero, a1 := f64Zero, a2 := f64Zero }
  con := Consts.reset
  tgt := { meas := f64NegInf, ref := 0xC02C000000000000#64 }
  res := { lufs := f64NegInf, nabs := 0#64, nrel := 0#64, gated := f64Zero }
  ana := Analysis.fresh p.chMax
  mem := []
  dyn := Dynamics.identity
  pout := []
  build := p
  events := []
  busResp := none
  taken := none
  nanSeq := 0

/-- The machine right after hardware reset, in the default build (70_reset_and_hazards.md R120; 00_scope.md R6). -/
def State.reset : State := State.resetOf Config.defaultBuild

end Sys2Proof.Machine
end

