-- ==== Sys2Proof/Machine/Float.lean ====
section
/-! DEFINITION. IEEE 754 binary64 arithmetic (00_scope.md R10), the conversions of R11, and the fixed constant of R12.

A finite binary64 value is an exact integer number of units of 2^-1074, and a finite binary32 value an exact integer
number of units of 2^-149. Every operator computes its exact result as a ratio of naturals in those units and rounds
once, in `roundMag`. A NaN result is the pattern the caller supplies (its payload is free: 93_implementation_defined.md
U1; log 3). -/

namespace Sys2Proof.Machine

/-- The biased exponent, bits 62..52 (30_encoding.md R61). -/
def fpExp (a : F64) : Nat := a.toNat / 2 ^ 52 % 2 ^ 11

/-- The fraction, bits 51..0 (30_encoding.md R61). -/
def fpFrac (a : F64) : Nat := a.toNat % 2 ^ 52

/-- The sign, bit 63 (30_encoding.md R61): true for negative. -/
def fpSign (a : F64) : Bool := a.getLsbD 63

/-- `isNaN(a)` (00_scope.md R10). -/
def fpIsNaN (a : F64) : Bool := fpExp a == 2047 && fpFrac a != 0

/-- An infinity of either sign. -/
def fpIsInf (a : F64) : Bool := fpExp a == 2047 && fpFrac a == 0

/-- `isFinite(a)` (00_scope.md R10). -/
def fpIsFinite (a : F64) : Bool := fpExp a != 2047

/-- The magnitude of a finite value, in units of 2^-1074. -/
def fpMag (a : F64) : Nat :=
  if fpExp a = 0 then fpFrac a else (2 ^ 52 + fpFrac a) * 2 ^ (fpExp a - 1)

/-- The value of a finite binary64, in units of 2^-1074. -/
def fpVal (a : F64) : Int := if fpSign a then -(fpMag a : Int) else (fpMag a : Int)

/-- The bits below the sign, 62..0, as a natural. -/
def fpMagBits (a : F64) : Nat := a.toNat % 2 ^ 63

/-- The pattern of the +inf magnitude. -/
def infMag : Nat := 2047 * 2 ^ 52

/-- A sign in front of the bits of a magnitude. -/
def fpPack (neg : Bool) (mag : Nat) : F64 := BitVec.ofBool neg ++ BitVec.ofNat 63 mag

/-- An infinity of the given sign. -/
def fpInf (neg : Bool) : F64 := fpPack neg infMag

/-- `-a` flips the sign bit (00_scope.md R10). -/
def fpNeg (a : F64) : F64 := a ^^^ 0x8000000000000000#64

/-- `fabs(a)` clears the sign bit (00_scope.md R10). -/
def fpAbs (a : F64) : F64 := a &&& 0x7FFFFFFFFFFFFFFF#64

/-- The quiet NaN with the given sign (bit 51 of `f`) and lower fraction bits (93_implementation_defined.md U1). -/
def quietNaN (f : BitVec 52) : F64 := f.extractLsb' 51 1 ++ 0xFFF#12 ++ f.extractLsb' 0 51

/-- The natural nearest n / d, ties to even. -/
def rne (n d : Nat) : Nat :=
  if d < 2 * (n % d) ∨ (2 * (n % d) = d ∧ n / d % 2 = 1) then n / d + 1 else n / d

/-- The binade of n / d units in a format with `p` significant bits: the power of two by which one unit in the last place
exceeds the smallest subnormal. -/
def binade (p n d : Nat) : Nat := if n / d < 2 ^ p then 0 else (n / d).log2 - (p - 1)

/-- The magnitude bits of n / d units, rounded to nearest even at `p` significant bits; `inf` is the pattern of infinity,
which every overflow reaches (00_scope.md R10). The pattern of q units in the last place of binade k is
k * 2^(p-1) + q, subnormals (k = 0, q < 2^(p-1)) and the carry into the next binade (q = 2^p) included. -/
def roundMag (p inf n d : Nat) : Nat :=
  min (binade p n d * 2 ^ (p - 1) + rne n (d * 2 ^ binade p n d)) inf

/-- n / d units of 2^-1074 as a binary64 of the given sign. -/
def fpRound (neg : Bool) (n d : Nat) : F64 := fpPack neg (roundMag 53 infMag n d)

/-- The sum of two binary64 values (00_scope.md R10); `nan` is the pattern of a NaN result. An exact zero sum is -0 when
both addends are negative, and +0 otherwise. -/
def fpAdd (nan a b : F64) : F64 :=
  if fpIsNaN a || fpIsNaN b then nan
  else if fpIsInf a then (if fpIsInf b && fpSign a != fpSign b then nan else a)
  else if fpIsInf b then b
  else
    let z := fpVal a + fpVal b
    if z = 0 then fpPack (fpSign a && fpSign b) 0 else fpRound (decide (z < 0)) z.natAbs 1

/-- The difference a - b (00_scope.md R10). -/
def fpSub (nan a b : F64) : F64 := fpAdd nan a (fpNeg b)

/-- The product (00_scope.md R10). -/
def fpMul (nan a b : F64) : F64 :=
  let neg := fpSign a != fpSign b
  if fpIsNaN a || fpIsNaN b then nan
  else if fpIsInf a then (if fpMagBits b = 0 then nan else fpInf neg)
  else if fpIsInf b then (if fpMagBits a = 0 then nan else fpInf neg)
  else fpRound neg (fpMag a * fpMag b) (2 ^ 1074)

/-- The quotient (00_scope.md R10). -/
def fpDiv (nan a b : F64) : F64 :=
  let neg := fpSign a != fpSign b
  if fpIsNaN a || fpIsNaN b then nan
  else if fpIsInf a then (if fpIsInf b then nan else fpInf neg)
  else if fpIsInf b then fpPack neg 0
  else if fpMagBits b = 0 then (if fpMagBits a = 0 then nan else fpInf neg)
  else fpRound neg (fpMag a * 2 ^ 1074) (fpMag b)

/-- The integer square root, from bit `b` down: `r` holds the bits already found. -/
def isqrtFrom (m : Nat) : Nat → Nat → Nat
  | 0, r => r
  | b + 1, r => isqrtFrom m b (if (r + 2 ^ b) * (r + 2 ^ b) ≤ m then r + 2 ^ b else r)

/-- The floor of the square root. -/
def isqrt (m : Nat) : Nat := isqrtFrom m (m.log2 / 2 + 1) 0

/-- IEEE squareRoot, correctly rounded (00_scope.md R10). The root of N units is the root of N * 2^1074, in units; its
floor has far more bits than the result keeps, so half a unit stands for any remainder. -/
def fpSqrt (nan a : F64) : F64 :=
  if fpIsNaN a then nan
  else if fpMagBits a = 0 then a
  else if fpSign a then nan
  else if fpIsInf a then a
  else
    let m := fpMag a * 2 ^ 1074
    let r := isqrt m
    fpRound false (2 * r + (if r * r = m then 0 else 1)) 2

/-- The order of the non-NaN values: the magnitude bits under their sign, both zeros at 0. -/
def fpKey (a : F64) : Int := if fpSign a then -(fpMagBits a : Int) else (fpMagBits a : Int)

/-- `a < b`, false when either is NaN (00_scope.md R10). -/
def fpLt (a b : F64) : Bool := !fpIsNaN a && !fpIsNaN b && decide (fpKey a < fpKey b)

/-- `a <= b`, false when either is NaN (00_scope.md R10). -/
def fpLe (a b : F64) : Bool := !fpIsNaN a && !fpIsNaN b && decide (fpKey a ≤ fpKey b)

/-- `a == b`, false when either is NaN; the two zeros are equal (00_scope.md R10). -/
def fpEq (a b : F64) : Bool := !fpIsNaN a && !fpIsNaN b && decide (fpKey a = fpKey b)

/-- `f64(n)` (00_scope.md R10). -/
def fpOfNat (n : Nat) : F64 := fpRound false (n * 2 ^ 1074) 1

/-- The binary64 nearest n / d, with a sign. -/
def fpOfRatio (neg : Bool) (n d : Nat) : F64 := fpRound neg (n * 2 ^ 1074) d

/-- The integer nearest v * 2^k for finite v, ties to even: `rne_int(v * f64(2^k))` (00_scope.md R11; the product of
30_encoding.md R60 is exact). -/
def fpRneInt (v : F64) (k : Nat) : Int :=
  if fpSign v then -(rne (fpMag v * 2 ^ k) (2 ^ 1074) : Int) else (rne (fpMag v * 2 ^ k) (2 ^ 1074) : Int)

/-- The pattern of the binary32 +inf magnitude. -/
def infMag32 : Nat := 255 * 2 ^ 23

/-- `f32(v)` for v not NaN (00_scope.md R11). A unit of 2^-149 is 2^925 units of 2^-1074. -/
def fpToF32 (v : F64) : F32 :=
  BitVec.ofBool (fpSign v) ++
    BitVec.ofNat 31 (if fpIsInf v then infMag32 else roundMag 24 infMag32 (fpMag v) (2 ^ 925))

/-- The exponent field of a binary32, bits 30..23. -/
def f32Exp (u : F32) : Nat := u.toNat / 2 ^ 23 % 2 ^ 8

/-- The fraction of a binary32, bits 22..0. -/
def f32Frac (u : F32) : Nat := u.toNat % 2 ^ 23

/-- The magnitude of a finite binary32, in units of 2^-149. -/
def f32Mag (u : F32) : Nat :=
  if f32Exp u = 0 then f32Frac u else (2 ^ 23 + f32Frac u) * 2 ^ (f32Exp u - 1)

/-- `f64_of_f32(u)` (00_scope.md R11): exact. A quiet NaN keeps its sign and fraction (log 3); a signalling NaN becomes
`nan`, a quiet NaN of unspecified payload. -/
def fpOfF32 (nan : F64) (u : F32) : F64 :=
  if f32Exp u = 255 then
    if f32Frac u = 0 then fpInf (u.getLsbD 31)
    else if u.getLsbD 22 then fpPack (u.getLsbD 31) (infMag + f32Frac u * 2 ^ 29)
    else nan
  else fpRound (u.getLsbD 31) (f32Mag u * 2 ^ 925) 1

/-- The binary64 value 2.0. -/
def f64Two : F64 := 0x4000000000000000#64

/-- The binary64 value -2.0. -/
def f64NegTwo : F64 := 0xC000000000000000#64

/-- The binary64 value 10.0. -/
def f64Ten : F64 := 0x4024000000000000#64

/-- The binary64 value 20.0. -/
def f64Twenty : F64 := 0x4034000000000000#64

/-- The binary64 value 40.0. -/
def f64Forty : F64 := 0x4044000000000000#64

/-- The binary64 value -1.0. -/
def f64NegOne : F64 := 0xBFF0000000000000#64

/-- `PI` (00_scope.md R12). -/
def f64Pi : F64 := 0x400921FB54442D18#64

end Sys2Proof.Machine
end

