-- ==== Sys2Proof/Machine/Math.lean ====
section
/-! DEFINITION. MATH, the parameter of 00_scope.md R13: the free functions of Config under the laws R13 assumes. -/

namespace Sys2Proof.Machine

/-- A result that must be a NaN because an operand is: the free result where it is one, else a quiet NaN of its bits.
It depends on the operands alone (00_scope.md R13). -/
def mathNaN (raw : F64) : F64 := if fpIsNaN raw then raw else quietNaN (raw.extractLsb' 0 52)

/-- `MATH.exp` (00_scope.md R13): `exp(-inf) = +0`, and NaN on a NaN operand. -/
def mathExp (x : F64) : F64 :=
  if fpIsNaN x then mathNaN (Config.mathExp x)
  else if x = f64NegInf then f64Zero
  else Config.mathExp x

/-- `MATH.sin` (00_scope.md R13): NaN on a NaN operand. -/
def mathSin (x : F64) : F64 := if fpIsNaN x then mathNaN (Config.mathSin x) else Config.mathSin x

/-- `MATH.cos` (00_scope.md R13): NaN on a NaN operand. -/
def mathCos (x : F64) : F64 := if fpIsNaN x then mathNaN (Config.mathCos x) else Config.mathCos x

/-- `MATH.pow` (00_scope.md R13): `pow(10.0, 0.0) = 1.0`, `pow(10.0, 1.0) = 10.0`, and NaN on a NaN operand. -/
def mathPow (x y : F64) : F64 :=
  if fpIsNaN x || fpIsNaN y then mathNaN (Config.mathPow x y)
  else if x = f64Ten ∧ y = f64Zero then f64One
  else if x = f64Ten ∧ y = f64One then f64Ten
  else Config.mathPow x y

/-- The integer k with 10^k = x, for the k at which 10^k is exactly a binary64: k from 0 to 22 (log 4). -/
def exactPowerOfTen (x : F64) : Option Nat := (List.range 23).find? (fun k => x == fpOfNat (10 ^ k))

/-- `MATH.log10` (00_scope.md R13): `log10(10.0^k) = k` where 10^k is exactly representable, and NaN on a NaN
operand. -/
def mathLog10 (x : F64) : F64 :=
  if fpIsNaN x then mathNaN (Config.mathLog10 x)
  else
    match exactPowerOfTen x with
    | some k => fpOfNat k
    | none => Config.mathLog10 x

end Sys2Proof.Machine
end

