-- ==== Sys2Proof/Machine/Flags.lean ====
section
/-! DEFINITION. STATUS: its sticky bits, its computed ACTIVE bit, its word, its write rule, and the interrupt line
(10_state.md R22, R23; 44_dynamics.md R96; 45_control.md R105; 60_exceptions.md R107, R110). -/

namespace Sys2Proof.Machine

/-- The STATUS position of a sticky bit (10_state.md R23). -/
def Sticky.bit : Sticky → Nat
  | .done => 8
  | .cmdErr => 9
  | .wrErr => 10
  | .busErr => 11
  | .blkOvf => 12
  | .unsup => 13
  | .aDrop => 14
  | .pPass => 15
  | .partDrop => 16

/-- The nine sources of the interrupt (60_exceptions.md R110). -/
def Sticky.all : List Sticky :=
  [.done, .cmdErr, .wrErr, .busErr, .blkOvf, .unsup, .aDrop, .pPass, .partDrop]

/-- The value of a sticky bit. -/
def Status.get (st : Status) : Sticky → Bool
  | .done => st.done
  | .cmdErr => st.cmdErr
  | .wrErr => st.wrErr
  | .busErr => st.busErr
  | .blkOvf => st.blkOvf
  | .unsup => st.unsup
  | .aDrop => st.aDrop
  | .pPass => st.pPass
  | .partDrop => st.partDrop

/-- `set STATUS.X` (00_scope.md R9). -/
def Status.raise (st : Status) : Sticky → Status
  | .done => { st with done := true }
  | .cmdErr => { st with cmdErr := true }
  | .wrErr => { st with wrErr := true }
  | .busErr => { st with busErr := true }
  | .blkOvf => { st with blkOvf := true }
  | .unsup => { st with unsup := true }
  | .aDrop => { st with aDrop := true }
  | .pPass => { st with pPass := true }
  | .partDrop => { st with partDrop := true }

/-- `set STATUS.X` when a condition holds. -/
def Status.raiseIf (st : Status) (c : Bool) (b : Sticky) : Status := if c then st.raise b else st

/-- WRITE_STATUS(v): each sticky bit written as 1 is cleared; every other bit ignores the write (45_control.md R105). -/
def Status.w1c (st : Status) (v : Word) : Status :=
  { st with
    done := st.done && !v.getLsbD 8
    cmdErr := st.cmdErr && !v.getLsbD 9
    wrErr := st.wrErr && !v.getLsbD 10
    busErr := st.busErr && !v.getLsbD 11
    blkOvf := st.blkOvf && !v.getLsbD 12
    unsup := st.unsup && !v.getLsbD 13
    aDrop := st.aDrop && !v.getLsbD 14
    pPass := st.pPass && !v.getLsbD 15
    partDrop := st.partDrop && !v.getLsbD 16 }

/-- ACTIVE, DYN's isActive (44_dynamics.md R96). -/
def active (s : State) : Bool :=
  s.status.tgtSet &&
    !(fpEq s.dyn.curGain f64One && fpEq s.dyn.tgtGain f64One && fpEq s.dyn.env f64One && s.dyn.remain == 0#64)

/-- STATUS as the host reads it, from bit 63 down (10_state.md R23; 20_memory.md R39). -/
def statusWord (s : State) : Word :=
  0#32 ++ s.status.errCode ++ 0#7 ++
    BitVec.ofBool s.status.partDrop ++ BitVec.ofBool s.status.pPass ++ BitVec.ofBool s.status.aDrop ++
    BitVec.ofBool s.status.unsup ++ BitVec.ofBool s.status.blkOvf ++ BitVec.ofBool s.status.busErr ++
    BitVec.ofBool s.status.wrErr ++ BitVec.ofBool s.status.cmdErr ++ BitVec.ofBool s.status.done ++
    0#3 ++ BitVec.ofBool (active s) ++ BitVec.ofBool s.status.tgtSet ++ BitVec.ofBool s.status.resValid ++
    BitVec.ofBool s.status.aOpen ++ BitVec.ofBool s.status.configured

/-- The interrupt output: the OR of the enabled sticky bits (60_exceptions.md R110). -/
def irq (s : State) : Bool := Sticky.all.any fun b => s.status.get b && s.irqEn.getLsbD b.bit

/-- The code of an error (60_exceptions.md R107). -/
def Err.code : Err → BitVec 8
  | .illegalOpcode => 0x01#8
  | .reservedBits => 0x02#8
  | .notConfigured => 0x03#8
  | .badRate => 0x04#8
  | .badChannels => 0x05#8
  | .ringTooSmall => 0x06#8
  | .sessionClosed => 0x07#8
  | .wrSessionBusy => 0x11#8
  | .wrRange => 0x12#8
  | .wrNotConfigured => 0x13#8
  | .busSize => 0x20#8
  | .busMisaligned => 0x21#8
  | .busUnmapped => 0x22#8
  | .busReadonly => 0x23#8

/-- The class of an error (60_exceptions.md R107). -/
def Err.cls : Err → ErrClass
  | .illegalOpcode | .reservedBits | .notConfigured | .badRate | .badChannels | .ringTooSmall
  | .sessionClosed => .cmd
  | .wrSessionBusy | .wrRange | .wrNotConfigured => .wr
  | .busSize | .busMisaligned | .busUnmapped | .busReadonly => .bus

/-- The STATUS bit of an error class (60_exceptions.md R106). -/
def ErrClass.sticky : ErrClass → Sticky
  | .cmd => .cmdErr
  | .wr => .wrErr
  | .bus => .busErr

end Sys2Proof.Machine
end

