-- ==== Sys2Proof/Machine/Operands.lean ====
section
/-! DEFINITION. The operand forms: the fields of CTRL, the sample formats and containers (30_encoding.md R56 to R60), and
the address map (20_memory.md R38). -/

namespace Sys2Proof.Machine

/-- The supported sample formats, codes 0 to 3 (30_encoding.md R56). -/
inductive SampleFormat where
  | s16 | s24 | s32 | f32
  deriving DecidableEq, Repr

/-- The format of a CTRL format code; codes 4 to 7 are unsupported (30_encoding.md R56). -/
def sampleFormat (code : BitVec 3) : Option SampleFormat :=
  if code = 0#3 then some .s16
  else if code = 1#3 then some .s24
  else if code = 2#3 then some .s32
  else if code = 3#3 then some .f32
  else none

/-- n: the bytes a beat of the format carries (30_encoding.md R56). -/
def SampleFormat.bytes : SampleFormat → Nat
  | .s16 => 2
  | .s24 => 3
  | .s32 => 4
  | .f32 => 4

/-- A_FMT, CTRL[2:0] (10_state.md R21). -/
def aFmt (ctrl : Word) : BitVec 3 := ctrl.extractLsb' 0 3

/-- A_BE, CTRL[3] (10_state.md R21). -/
def aBe (ctrl : Word) : Bool := ctrl.getLsbD 3

/-- P_FMT, CTRL[6:4] (10_state.md R21). -/
def pFmt (ctrl : Word) : BitVec 3 := ctrl.extractLsb' 4 3

/-- P_BE, CTRL[7] (10_state.md R21). -/
def pBe (ctrl : Word) : Bool := ctrl.getLsbD 7

/-- The natural whose bytes, least significant first, are the list. -/
def leNat : List Byte → Nat
  | [] => 0
  | b :: bs => b.toNat + 256 * leNat bs

/-- The low n bytes of a natural, least significant first. -/
def leBytes : Nat → Nat → List Byte
  | 0, _ => []
  | n + 1, v => BitVec.ofNat 8 v :: leBytes n (v / 256)

/-- The bytes of a sample in stream order, from or to least significant first: byte order BE reverses them
(30_encoding.md R57). -/
def byteOrder (be : Bool) (bs : List Byte) : List Byte := if be then bs.reverse else bs

/-- The raw bits r of a beat: its first n bytes in the port's byte order; the others are ignored (30_encoding.md R57). -/
def rawSample (fmt : SampleFormat) (be : Bool) (w : Beat) : Nat :=
  leNat (byteOrder be (leBytes fmt.bytes w.toNat))

/-- The beat that carries the raw bits r; its other bytes are zero (30_encoding.md R57, R60). -/
def placeSample (fmt : SampleFormat) (be : Bool) (r : Nat) : Beat :=
  BitVec.ofNat 32 (leNat (byteOrder be (leBytes fmt.bytes r)))

/-- The signed integer of N = 8n raw bits in two's complement (30_encoding.md R56, R58). -/
def signedRaw (n r : Nat) : Int := if 2 * r < 256 ^ n then (r : Int) else (r : Int) - (256 ^ n : Nat)

/-- The code of magnitude 1.0: 2^(N-1) (30_encoding.md R58, R59). -/
def fullScale (n : Nat) : Nat := 2 ^ (8 * n - 1)

/-- An integer sample as a binary64: its code over 2^(N-1), exact (30_encoding.md R58). -/
def decInt (n r : Nat) : F64 :=
  fpOfRatio (decide (signedRaw n r < 0)) (signedRaw n r).natAbs (fullScale n)

/-- `dec(w, fmt, be)` (30_encoding.md R58). -/
def dec (nan : F64) (fmt : SampleFormat) (be : Bool) (w : Beat) : F64 :=
  match fmt with
  | .s16 | .s24 | .s32 => decInt fmt.bytes (rawSample fmt be w)
  | .f32 => fpOfF32 nan (BitVec.ofNat 32 (rawSample fmt be w))

/-- The integer code of v, rounded to nearest even and saturated at the largest code, modulo 2^N (30_encoding.md R60). -/
def encInt (n : Nat) (v : F64) : Nat :=
  let q := fpRneInt v (8 * n - 1)
  ((if (fullScale n : Int) - 1 < q then (fullScale n : Int) - 1 else q) % (256 ^ n : Nat)).toNat

/-- `enc(v, fmt, be)` (30_encoding.md R60). -/
def enc (fmt : SampleFormat) (be : Bool) (v : F64) : Beat :=
  match fmt with
  | .s16 | .s24 | .s32 => placeSample fmt be (encInt fmt.bytes v)
  | .f32 => placeSample fmt be (fpToF32 v).toNat

/-- What an 8-byte aligned address of the host bus space holds (20_memory.md R38). -/
inductive Place where
  /-- A register of 10_state.md R18. -/
  | reg (r : Reg)
  /-- Word k of channel c's filter state: X1, Y1, S1, S2 for k = 0 to 3 (10_state.md R33). -/
  | filter (c k : Nat)
  /-- Block-energy entry i (10_state.md R34). -/
  | blk (i : Nat)
  deriving DecidableEq, Repr

/-- The registers in offset order: entry j stands at offset 8 * j (10_state.md R18). -/
def regTable : List Reg :=
  [.id, .param0, .param1, .ctrl, .irqEn, .status, .cmd, .cfgFs, .cfgCh, .blockSize, .hopSize, .rampFrames,
   .aFrames, .aNblk, .aNemit, .pFrames] ++
  [.hpAlpha, .bqB0, .bqB1, .bqB2, .bqA1, .bqA2,
   .absThr, .relFactor, .lufsCal, .limThr, .atkCoef, .relCoef, .minGainDb, .maxGainDb] ++
  [.tgtMeas, .tgtRef, .resLufs, .resNabs, .resNrel, .resGated,
   .dCurGain, .dTgtGain, .dEnv, .dRemain, .aPart, .pPart]

/-- The base of the filter-state window (20_memory.md R38). -/
def filterBase : Nat := 0x800

/-- The base of block-energy memory (20_memory.md R38). -/
def blkBase : Nat := 0x100000

/-- The map of 20_memory.md R38 at an 8-byte aligned address; none where nothing is mapped. -/
def placeAt (p : Config.Params) (a : Nat) : Option Place :=
  if a < 0x150 then (regTable[a / 8]?).map .reg
  else if a < filterBase then none
  else if a < 0x1000 then
    if (a - filterBase) / 32 < p.chMax then some (.filter ((a - filterBase) / 32) ((a - filterBase) % 32 / 8)) else none
  else if a < blkBase then none
  else if (a - blkBase) / 8 < p.blkDepth then some (.blk ((a - blkBase) / 8))
  else none

/-- The access codes of 10_state.md R18. -/
inductive Access where
  | ro | rw | rwv | wo | mix
  deriving DecidableEq, Repr

/-- The access column of 10_state.md R18. -/
def Reg.access : Reg → Access
  | .id | .param0 | .param1 => .ro
  | .ctrl | .irqEn => .rw
  | .status => .mix
  | .cmd => .wo
  | .cfgFs | .cfgCh => .ro
  | .blockSize | .hopSize => .rwv
  | .rampFrames => .rw
  | .aFrames | .aNblk | .aNemit | .pFrames => .ro
  | .hpAlpha | .bqB0 | .bqB1 | .bqB2 | .bqA1 | .bqA2 => .rw
  | .absThr | .relFactor | .lufsCal | .limThr | .atkCoef | .relCoef | .minGainDb | .maxGainDb => .rw
  | .tgtMeas | .tgtRef => .rw
  | .resLufs | .resNabs | .resNrel | .resGated => .ro
  | .dCurGain | .dTgtGain | .dEnv | .dRemain | .aPart | .pPart => .ro

end Sys2Proof.Machine
end

