-- ==== Sys2Proof/Machine/Ops.lean ====
section
/-! DEFINITION. The shared operations: the bytes of block memory, the free NaN supply, the raising of an error
(60_exceptions.md R108), and the reading of every register and window (20_memory.md R39). -/

namespace Sys2Proof.Machine

/-- What an unlisted byte of block memory reads as (93_implementation_defined.md U2: unspecified, and no read of the host
can see it; DESIGN CHOICE, log 5). -/
def unlistedByte : Byte := 0#8

/-- One byte of block memory, at its bus address. -/
def Memory.byte : Memory → Nat → Byte
  | [], _ => unlistedByte
  | (k, v) :: m, a => if a = k then v else Memory.byte m a

/-- A byte in front of a list of later addresses, unless it is what an unlisted address reads as. -/
def Memory.cons (a : Nat) (v : Byte) (m : Memory) : Memory := if v = unlistedByte then m else (a, v) :: m

/-- The memory with one byte written. -/
def Memory.setByte : Memory → Nat → Byte → Memory
  | [], a, v => Memory.cons a v []
  | (k, u) :: m, a, v =>
    if a < k then Memory.cons a v ((k, u) :: m)
    else if a = k then Memory.cons a v m
    else (k, u) :: Memory.setByte m a v

/-- The memory with bytes written at rising addresses. -/
def Memory.setBytes (m : Memory) (a : Nat) : List Byte → Memory
  | [] => m
  | b :: bs => Memory.setBytes (Memory.setByte m a b) (a + 1) bs

/-- Every address at or above `lo`, strictly rising, and no byte as unlisted. -/
def Memory.wfFrom : Nat → Memory → Bool
  | _, [] => true
  | lo, (k, v) :: m => decide (lo ≤ k) && v != unlistedByte && Memory.wfFrom (k + 1) m

/-- The canonical form of memory (log 5). -/
def Memory.wf (m : Memory) : Bool := Memory.wfFrom 0 m

/-- The bus address of BLK[i] (10_state.md R34). -/
def blkAddr (i : Nat) : Nat := blkBase + 8 * i

/-- The n bytes of memory at rising addresses. -/
def Memory.bytes (m : Memory) (a : Nat) : Nat → List Byte
  | 0 => []
  | n + 1 => m.byte a :: Memory.bytes m (a + 1) n

/-- BLK[i]: eight bytes in the bus's little-endian lanes (10_state.md R34; 20_memory.md R41). -/
def blkRead (m : Memory) (i : Nat) : F64 := BitVec.ofNat 64 (leNat (m.bytes (blkAddr i) 8))

/-- `BLK[i] <- e` (41_block_energy.md R74). -/
def blkWrite (m : Memory) (i : Nat) (e : F64) : Memory := m.setBytes (blkAddr i) (leBytes 8 e.toNat)

/-- A supply of NaN patterns, by the place of the operation that produces one. -/
abbrev NaNs := List Nat → F64

/-- The free NaNs of the host event being served (93_implementation_defined.md U1; log 3). -/
def State.nans (s : State) : NaNs := fun path => quietNaN (Config.freeNaN s.nanSeq path)

/-- The supply for part k of an operation. -/
def NaNs.part (nan : NaNs) (k : Nat) : NaNs := fun path => nan (k :: path)

/-- The next event draws fresh NaNs (log 3). -/
def State.bumpNaN (s : State) : State := { s with nanSeq := s.nanSeq + 1 }

/-- `set STATUS.X` (00_scope.md R9). -/
def State.raise (s : State) (b : Sticky) : State := { s with status := s.status.raise b }

/-- `raise Error(class, code)`: the class bit and ERRCODE, and no other change (60_exceptions.md R108). This is all the
machine does on an error: there is no trap entry and no return (R111, R112). -/
def raiseError (e : Err) (s : State) : State :=
  { s with status := { s.status.raise e.cls.sticky with errCode := e.code } }

/-- ID (10_state.md R19). -/
def idWord : Word := 0x4B574C4400070001#64

/-- PARAM0: FS_MAX above FS_MIN above CH_MAX (10_state.md R20). -/
def param0Word (p : Config.Params) : Word :=
  0#16 ++ BitVec.ofNat 20 p.fsMax ++ BitVec.ofNat 20 p.fsMin ++ BitVec.ofNat 8 p.chMax

/-- PARAM1: RING_DEPTH above BLK_DEPTH (10_state.md R20). -/
def param1Word (p : Config.Params) : Word := BitVec.ofNat 32 p.ringDepth ++ BitVec.ofNat 32 p.blkDepth

/-- A register as the host reads it (10_state.md R18 to R32; 20_memory.md R39). -/
def readReg (s : State) : Reg → Word
  | .id => idWord
  | .param0 => param0Word s.build
  | .param1 => param1Word s.build
  | .ctrl => s.ctrl
  | .irqEn => s.irqEn
  | .status => statusWord s
  | .cmd => 0#64
  | .cfgFs => s.cfg.fs
  | .cfgCh => s.cfg.ch
  | .blockSize => s.cfg.blockSize
  | .hopSize => s.cfg.hopSize
  | .rampFrames => s.cfg.rampFrames
  | .aFrames => BitVec.ofNat 64 s.ana.frames
  | .aNblk => BitVec.ofNat 64 s.ana.nblk
  | .aNemit => BitVec.ofNat 64 s.ana.nemit
  | .pFrames => BitVec.ofNat 64 s.dyn.frames
  | .hpAlpha => s.coef.hpAlpha
  | .bqB0 => s.coef.b0
  | .bqB1 => s.coef.b1
  | .bqB2 => s.coef.b2
  | .bqA1 => s.coef.a1
  | .bqA2 => s.coef.a2
  | .absThr => s.con.absThr
  | .relFactor => s.con.relFactor
  | .lufsCal => s.con.lufsCal
  | .limThr => s.con.limThr
  | .atkCoef => s.con.atkCoef
  | .relCoef => s.con.relCoef
  | .minGainDb => s.con.minGainDb
  | .maxGainDb => s.con.maxGainDb
  | .tgtMeas => s.tgt.meas
  | .tgtRef => s.tgt.ref
  | .resLufs => s.res.lufs
  | .resNabs => s.res.nabs
  | .resNrel => s.res.nrel
  | .resGated => s.res.gated
  | .dCurGain => s.dyn.curGain
  | .dTgtGain => s.dyn.tgtGain
  | .dEnv => s.dyn.env
  | .dRemain => s.dyn.remain
  | .aPart => BitVec.ofNat 64 s.ana.part.length
  | .pPart => BitVec.ofNat 64 s.dyn.part.length

/-- Word k of a filter state, in window order (10_state.md R33). -/
def FilterState.word (f : FilterState) (k : Nat) : F64 :=
  if k = 0 then f.x1 else if k = 1 then f.y1 else if k = 2 then f.s1 else f.s2

/-- What a successful bus read of a place returns (20_memory.md R39; 10_state.md R33, R34). -/
def readPlace (s : State) : Place → Word
  | .reg r => readReg s r
  | .filter c k => (s.ana.filter.getD c FilterState.zero).word k
  | .blk i => if i < s.ana.nblk then blkRead s.mem i else 0#64

/-- The bus checks common to reads and writes, in their order: size, alignment, map (20_memory.md R39, R40, R43;
60_exceptions.md R109). -/
def busCheck (p : Config.Params) (addr : Addr) (n : Nat) : Except Err Place :=
  if n ≠ 8 then .error .busSize
  else if addr.toNat % 8 ≠ 0 then .error .busMisaligned
  else
    match placeAt p addr.toNat with
    | none => .error .busUnmapped
    | some pl => .ok pl

end Sys2Proof.Machine
end

