-- ==== Sys2Proof/Machine/Analysis.lean ====
section
/-! DEFINITION. The analysis engine: A_BEAT, the filter cascade, the block energy integrator and the absolute gate, the
two-stage gate, A_RESET and A_FINALIZE (40_kweight.md, 41_block_energy.md, 42_gate_aggregate.md). -/

namespace Sys2Proof.Machine

/-- STAGE_A's output yA: the one-pole high-pass (40_kweight.md R66). -/
def stageA (nan : NaNs) (k : Coeffs) (f : FilterState) (x : F64) : F64 :=
  fpMul (nan [2]) k.hpAlpha (fpSub (nan [1]) (fpAdd (nan [0]) f.y1 x) f.x1)

/-- STAGE_B's output y (40_kweight.md R67; 90_conflicts.md C1). -/
def stageB (nan : NaNs) (k : Coeffs) (f : FilterState) (u : F64) : F64 :=
  fpAdd (nan [4]) (fpMul (nan [3]) k.b0 u) f.s1

/-- STAGE_B's next first state register, from its input u and output y (40_kweight.md R67). -/
def stageBs1 (nan : NaNs) (k : Coeffs) (f : FilterState) (u y : F64) : F64 :=
  fpAdd (nan [8]) (fpSub (nan [7]) (fpMul (nan [5]) k.b1 u) (fpMul (nan [6]) k.a1 y)) f.s2

/-- STAGE_B's next second state register (40_kweight.md R67). -/
def stageBs2 (nan : NaNs) (k : Coeffs) (u y : F64) : F64 :=
  fpSub (nan [11]) (fpMul (nan [9]) k.b2 u) (fpMul (nan [10]) k.a2 y)

/-- One sample of one channel through stage A and then stage B: the channel's next filter state and its filtered sample
(40_kweight.md R64 to R67). -/
def filterSample (nan : NaNs) (k : Coeffs) (f : FilterState) (x : F64) : FilterState × F64 :=
  let yA := stageA nan k f x
  let y := stageB nan k f yA
  ({ x1 := x, y1 := yA, s1 := stageBs1 nan k f yA y, s2 := stageBs2 nan k yA y }, y)

/-- A frame through the cascade, channel by channel from channel `c` on; the states of channels without a sample stay as
they are (40_kweight.md R64, R65; 10_state.md R33). -/
def filterFrame (nan : NaNs) (k : Coeffs) : Nat → List FilterState → List F64 → List FilterState × List F64
  | c, f :: fs, x :: xs =>
    let here := filterSample (nan.part c) k f x
    let rest := filterFrame nan k (c + 1) fs xs
    (here.1 :: rest.1, here.2 :: rest.2)
  | _, fs, [] => (fs, [])
  | _, [], _ :: _ => ([], [])

/-- The running sum of squares, oldest frame first and channel 0 first (41_block_energy.md R76). A NaN sum fails the
absolute gate whatever its payload, so its operations share one free value (log 3). -/
def sumSquares (nan : F64) (frames : List (List F64)) : F64 :=
  frames.flatten.foldl (fun acc x => fpAdd nan acc (fpMul nan x x)) f64Zero

/-- BLOCK_ENERGY: the mean square over all `n` = B * C samples of the block (41_block_energy.md R76). -/
def blockEnergy (nan : F64) (n : Nat) (frames : List (List F64)) : F64 :=
  fpDiv nan (sumSquares nan frames) (fpOfNat n)

/-- BLOCK_EMIT's effect for a block of energy `e`: count it, gate and store it, advance the window
(41_block_energy.md R74, R77, R78). -/
def storeBlock (e : F64) (s : State) : State :=
  let ana := { s.ana with nemit := s.ana.nemit + 1, rb := s.ana.rb.drop s.cfg.hopSize.toNat }
  if fpLe s.con.absThr e then
    if s.ana.nblk < s.build.blkDepth then
      { s with ana := { ana with nblk := s.ana.nblk + 1 }, mem := blkWrite s.mem s.ana.nblk e }
    else { s with ana := ana, status := s.status.raise .blkOvf }
  else { s with ana := ana }

/-- BLOCK_EMIT (41_block_energy.md R74). -/
def blockEmit (nan : F64) (s : State) : State :=
  storeBlock
    (blockEnergy nan (s.cfg.blockSize.toNat * s.cfg.ch.toNat) (s.ana.rb.take s.cfg.blockSize.toNat)) s

/-- ANALYZE_FRAME up to its test for a full block: filter the frame, append it to RB, count it (40_kweight.md R64). -/
def pushFrame (nan : NaNs) (x : List F64) (s : State) : State :=
  let r := filterFrame nan s.coef 0 s.ana.filter x
  { s with ana := { s.ana with filter := r.1, rb := s.ana.rb ++ [r.2], frames := s.ana.frames + 1 } }

/-- ANALYZE_FRAME (40_kweight.md R64; 41_block_energy.md R73). -/
def analyzeFrame (nan : NaNs) (x : List F64) (s : State) : State :=
  let t := pushFrame (nan.part 0) x s
  if t.cfg.blockSize.toNat ≤ t.ana.rb.length then blockEmit (nan [1]) t else t

/-- A decoded sample joins APART; the last one of a frame starts ANALYZE_FRAME (40_kweight.md R63). -/
def pushSampleA (nan : NaNs) (x : F64) (s : State) : State :=
  let part := s.ana.part ++ [x]
  if part.length = s.cfg.ch.toNat then analyzeFrame nan part { s with ana := { s.ana with part := [] } }
  else { s with ana := { s.ana with part := part } }

/-- A_BEAT (40_kweight.md R63). -/
def analysisBeat (w : Beat) (s : State) : State :=
  if s.status.configured then
    match sampleFormat (aFmt s.ctrl) with
    | none => s.raise .unsup
    | some fmt =>
      if s.status.aOpen then
        (pushSampleA (s.nans.part 1) (dec (s.nans [0]) fmt (aBe s.ctrl) w) s).bumpNaN
      else s.raise .aDrop
  else s.raise .aDrop

/-- The NOT_CONFIGURED check that begins every command but NOP and CONFIGURE (45_control.md R99). -/
def whenConfigured (f : State → State) (s : State) : State :=
  if s.status.configured then f s else raiseError .notConfigured s

/-- A_RESET past its check: PART_DROP for a held partial frame, then a fresh open session (42_gate_aggregate.md R79). -/
def openSession (s : State) : State :=
  { s with
    status := { s.status.raiseIf (!s.ana.part.isEmpty) .partDrop with aOpen := true }
    ana := Analysis.fresh s.build.chMax }

/-- A_RESET (42_gate_aggregate.md R79). -/
def sessionReset (s : State) : State := whenConfigured openSession s

/-- The retained block energies BLK[0 .. A_NBLK-1], in index order (10_state.md R34). -/
def energies (s : State) : List F64 := (List.range s.ana.nblk).map (blkRead s.mem)

/-- A sum from +0.0, left to right (42_gate_aggregate.md R80). A NaN sum gives the invalid result whatever its payload, so
its operations share one free value (log 3). -/
def sumList (nan : F64) (es : List F64) : F64 := es.foldl (fun acc e => fpAdd nan acc e) f64Zero

/-- The mean of a list of energies: their sum over their count (42_gate_aggregate.md R80). -/
def meanList (nan : F64) (es : List F64) : F64 := fpDiv nan (sumList nan es) (fpOfNat es.length)

/-- The energies that pass the relative gate: those at or above mean * REL_FACTOR (42_gate_aggregate.md R81). -/
def relativeGate (nan relFactor : F64) (es : List F64) : List F64 :=
  es.filter fun e => fpLe (fpMul nan (meanList nan es) relFactor) e

/-- The loudness of a gated mean: 10 * log10(g) - LUFS_CAL (42_gate_aggregate.md R82). -/
def loudness (nan lufsCal g : F64) : F64 := fpSub nan (fpMul nan f64Ten (mathLog10 g)) lufsCal

/-- The blocks that the second pass of A_FINALIZE keeps: none when fewer than two blocks passed the first
(42_gate_aggregate.md R80). -/
def survivors (nan relFactor : F64) (es : List F64) : List F64 :=
  if 2 ≤ es.length then relativeGate nan relFactor es else []

/-- Whether the survivors give a valid loudness (42_gate_aggregate.md R80, R83). -/
def validLoudness (nan lufsCal : F64) (kept : List F64) : Bool :=
  !kept.isEmpty && fpLt f64Zero (meanList nan kept) && fpIsFinite (meanList nan kept) &&
    fpIsFinite (loudness nan lufsCal (meanList nan kept))

/-- The result registers that A_FINALIZE writes (42_gate_aggregate.md R80, R84). -/
def gateResults (nan : F64) (con : Consts) (es : List F64) : Results :=
  let kept := survivors nan con.relFactor es
  let valid := validLoudness nan con.lufsCal kept
  { lufs := if valid then loudness nan con.lufsCal (meanList nan kept) else f64NegInf
    nabs := BitVec.ofNat 64 es.length
    nrel := BitVec.ofNat 64 kept.length
    gated := if valid then meanList nan kept else f64Zero }

/-- A_FINALIZE past its checks (42_gate_aggregate.md R80). -/
def closeSession (s : State) : State :=
  let nan := s.nans []
  { s with
    status :=
      { (s.status.raiseIf (!s.ana.part.isEmpty) .partDrop).raise .done with
        resValid := validLoudness nan s.con.lufsCal (survivors nan s.con.relFactor (energies s))
        aOpen := false }
    res := gateResults nan s.con (energies s)
    ana := { s.ana with part := [], rb := [] }
    nanSeq := s.nanSeq + 1 }

/-- A_FINALIZE (42_gate_aggregate.md R80). -/
def finalize (s : State) : State :=
  whenConfigured (fun s => if s.status.aOpen then closeSession s else raiseError .sessionClosed s) s

/-- The meaning of A_BEAT. -/
def execABeat (w : Beat) (s : State) : Host.Outcome State Fault Refusal := .next (analysisBeat w s)

/-- The meaning of A_RESET. -/
def execAReset (s : State) : Host.Outcome State Fault Refusal := .next (sessionReset s)

/-- The meaning of A_FINALIZE. -/
def execAFinalize (s : State) : Host.Outcome State Fault Refusal := .next (finalize s)

end Sys2Proof.Machine
end

