-- ==== Sys2Proof/Machine/Dynamics.lean ====
section
/-! DEFINITION. The dynamics engine: the loudness-to-gain mapper and D_SET_TARGET, P_BEAT with the gain ramp, the limiter
and the output clamp, D_FLUSH and D_RESET (43_gain_mapper.md, 44_dynamics.md). -/

namespace Sys2Proof.Machine

/-- The lower bound first and the upper bound second; a NaN bound does not clamp (43_gain_mapper.md R85). -/
def clampDb (con : Consts) (d : F64) : F64 :=
  let d1 := if fpLt d con.minGainDb then con.minGainDb else d
  if fpLt con.maxGainDb d1 then con.maxGainDb else d1

/-- GAIN(M, R) (43_gain_mapper.md R85). No operation on the path to a gain other than 1.0 gives a NaN but `MATH.pow`
itself, so one free value serves. -/
def gain (nan : F64) (con : Consts) (m r : F64) : F64 :=
  if fpIsFinite m then
    if fpIsNaN (fpSub nan r m) then f64One
    else mathPow f64Ten (fpDiv nan (clampDb con (fpSub nan r m)) f64Twenty)
  else f64One

/-- D_SET_TARGET past its check (43_gain_mapper.md R87). -/
def publishTarget (s : State) : State :=
  { s with
    dyn := { s.dyn with tgtGain := gain (s.nans []) s.con s.tgt.meas s.tgt.ref, remain := s.cfg.rampFrames }
    status := { s.status with tgtSet := true }
    nanSeq := s.nanSeq + 1 }

/-- D_SET_TARGET (43_gain_mapper.md R87). -/
def setTarget (s : State) : State := whenConfigured publishTarget s

/-- RAMP_STEP (44_dynamics.md R90). -/
def rampStep (nan : NaNs) (d : Dynamics) : Dynamics :=
  if 0#64 < d.remain then
    { d with
      remain := d.remain - 1#64
      curGain :=
        if d.remain - 1#64 = 0#64 then d.tgtGain
        else fpAdd (nan [2]) d.curGain
          (fpDiv (nan [1]) (fpSub (nan [0]) d.tgtGain d.curGain) (fpOfNat d.remain.toNat)) }
  else { d with curGain := d.tgtGain }

/-- The per-frame peak of |x * g| across the channels; a NaN product never raises it (44_dynamics.md R89). -/
def framePeak (nan g : F64) (x : List F64) : F64 :=
  x.foldl (fun peak v => if fpLt peak (fpAbs (fpMul nan v g)) then fpAbs (fpMul nan v g) else peak) f64Zero

/-- tr, the target reduction, from the gained peak (44_dynamics.md R91; 90_conflicts.md C2). -/
def targetReduction (nan limThr peak : F64) : F64 :=
  if fpLt limThr peak then fpDiv nan limThr peak else f64One

/-- One-pole smoothing: coef * env + (1 - coef) * tr (44_dynamics.md R91, R92). -/
def smooth (nan : NaNs) (coef env tr : F64) : F64 :=
  fpAdd (nan [3]) (fpMul (nan [0]) coef env) (fpMul (nan [2]) (fpSub (nan [1]) f64One coef) tr)

/-- LIMITER_STEP: the next envelope (44_dynamics.md R91). -/
def limiterStep (nan : NaNs) (con : Consts) (peak env : F64) : F64 :=
  let tr := targetReduction (nan [4]) con.limThr peak
  if fpLt tr env then smooth nan con.atkCoef env tr
  else if fpLt env tr then smooth nan con.relCoef env tr
  else env

/-- CLAMP (44_dynamics.md R93). -/
def clampOut (v : F64) : F64 :=
  if fpIsNaN v then f64Zero else if fpLt f64One v then f64One else if fpLt v f64NegOne then f64NegOne else v

/-- The output word of a sample: (x * g) * e, clamped and encoded (44_dynamics.md R89). A NaN product clamps to +0.0
whatever its payload, so one free value serves (log 3). -/
def outputWord (nan : F64) (fmt : SampleFormat) (be : Bool) (g e x : F64) : Beat :=
  enc fmt be (clampOut (fpMul nan (fpMul nan x g) e))

/-- PROCESS_FRAME's effect on the dynamics state: the ramp, then the limiter with the new gain, then the frame count
(44_dynamics.md R89). -/
def processDyn (nan : NaNs) (con : Consts) (x : List F64) (d : Dynamics) : Dynamics :=
  let r := rampStep (nan.part 0) d
  { r with
    env := limiterStep (nan.part 1) con (framePeak (nan [2]) r.curGain x) r.env
    frames := r.frames + 1 }

/-- PROCESS_FRAME (44_dynamics.md R89): the output uses the gain and the envelope after this frame's updates. -/
def processFrame (nan : NaNs) (fmt : SampleFormat) (x : List F64) (s : State) : State :=
  let d := processDyn nan s.con x s.dyn
  { s with
    dyn := d
    pout := s.pout ++ x.map (outputWord (nan [3]) fmt (pBe s.ctrl) d.curGain d.env) }

/-- A decoded sample joins PPART; the last one of a frame starts PROCESS_FRAME (44_dynamics.md R88). -/
def pushSampleP (nan : NaNs) (fmt : SampleFormat) (x : F64) (s : State) : State :=
  let part := s.dyn.part ++ [x]
  if part.length = s.cfg.ch.toNat then processFrame nan fmt part { s with dyn := { s.dyn with part := [] } }
  else { s with dyn := { s.dyn with part := part } }

/-- A pass-through copy of a beat, with its event bit (44_dynamics.md R88). -/
def passThrough (b : Sticky) (w : Beat) (s : State) : State :=
  { s with status := s.status.raise b, pout := s.pout ++ [w] }

/-- P_BEAT (44_dynamics.md R88). -/
def playbackBeat (w : Beat) (s : State) : State :=
  if s.status.configured then
    match sampleFormat (pFmt s.ctrl) with
    | none => passThrough .unsup w s
    | some fmt => (pushSampleP (s.nans.part 1) fmt (dec (s.nans [0]) fmt (pBe s.ctrl) w) s).bumpNaN
  else passThrough .pPass w s

/-- DYN_RESTORE (44_dynamics.md R94; 90_conflicts.md C5). -/
def dynRestore (s : State) : State :=
  { s with
    status := s.status.raiseIf (!s.dyn.part.isEmpty) .partDrop
    dyn :=
      { s.dyn with
        part := []
        curGain := f64One
        env := f64One
        remain := if s.status.tgtSet then s.cfg.rampFrames else 0#64 } }

/-- D_FLUSH (44_dynamics.md R94). -/
def dynFlush (s : State) : State := whenConfigured dynRestore s

/-- D_RESET (44_dynamics.md R95): the same effect under its own opcode. -/
def dynReset (s : State) : State := whenConfigured dynRestore s

/-- The meaning of D_SET_TARGET. -/
def execDSetTarget (s : State) : Host.Outcome State Fault Refusal := .next (setTarget s)

/-- The meaning of P_BEAT. -/
def execPBeat (w : Beat) (s : State) : Host.Outcome State Fault Refusal := .next (playbackBeat w s)

/-- The meaning of D_FLUSH. -/
def execDFlush (s : State) : Host.Outcome State Fault Refusal := .next (dynFlush s)

/-- The meaning of D_RESET. -/
def execDReset (s : State) : Host.Outcome State Fault Refusal := .next (dynReset s)

end Sys2Proof.Machine
end

