-- ==== Sys2Proof/Machine/Control.lean ====
section
/-! DEFINITION. NOP, CONFIGURE with the derivation of every rate-dependent register, and the write rule of every register
but CMD (45_control.md; 40_kweight.md R69, R70; 41_block_energy.md R72; 44_dynamics.md R91). -/

namespace Sys2Proof.Machine

/-- NOP: nothing (45_control.md R100). -/
def doNothing (s : State) : State := s

/-- `BLOCK_SIZE` of a sample rate: 400 ms, rounded (41_block_energy.md R72). -/
def blockSizeOf (fs : Nat) : Nat := (2 * fs + 2) / 5

/-- `HOP_SIZE` of a sample rate: a quarter of the block, rounded down (41_block_energy.md R72). -/
def hopSizeOf (fs : Nat) : Nat := blockSizeOf fs / 4

/-- `RAMP_FRAMES` of a sample rate: 100 ms, rounded half up (44_dynamics.md R90). -/
def rampFramesOf (fs : Nat) : Nat := (fs + 5) / 10

/-- `(2.0 * PI) * f / f64(fs)`: the angle of a frequency per sample (40_kweight.md R69, R70). -/
def angleOf (nan : NaNs) (f : F64) (fs : Nat) : F64 :=
  fpDiv (nan [2]) (fpMul (nan [1]) (fpMul (nan [0]) f64Two f64Pi) f) (fpOfNat fs)

/-- HP_ALPHA (40_kweight.md R69). -/
def hpAlphaOf (nan : NaNs) (p : Config.Params) (fs : Nat) : F64 := mathExp (fpNeg (angleOf nan p.hpFc fs))

/-- A time constant's coefficient, `MATH.exp(-(1.0 / (t * f64(fs))))` (44_dynamics.md R91). -/
def timeCoefOf (nan : NaNs) (t : F64) (fs : Nat) : F64 :=
  mathExp (fpNeg (fpDiv (nan [1]) f64One (fpMul (nan [0]) t (fpOfNat fs))))

/-- beta, from A (40_kweight.md R70). -/
def shelfBeta (nan : NaNs) (shS a : F64) : F64 :=
  fpSqrt (nan [6])
    (fpSub (nan [5]) (fpDiv (nan [2]) (fpAdd (nan [1]) (fpMul (nan [0]) a a) f64One) shS)
      (fpMul (nan [4]) (fpSub (nan [3]) a f64One) (fpSub (nan [3]) a f64One)))

/-- The shelf's normalised coefficients from A, cos w0, sin w0 and beta, with HP_ALPHA passed through
(40_kweight.md R70). -/
def shelfCoeffs (nan : NaNs) (hpAlpha a cw sw beta : F64) : Coeffs :=
  let ap := fpAdd (nan [0]) a f64One
  let am := fpSub (nan [1]) a f64One
  let amc := fpMul (nan [2]) am cw
  let apc := fpMul (nan [3]) ap cw
  let bs := fpMul (nan [4]) beta sw
  let sum := fpAdd (nan [5]) ap amc
  let dif := fpSub (nan [6]) ap amc
  let b0 := fpMul (nan [8]) a (fpAdd (nan [7]) sum bs)
  let b1 := fpMul (nan [11]) (fpMul (nan [9]) f64NegTwo a) (fpAdd (nan [10]) am apc)
  let b2 := fpMul (nan [13]) a (fpSub (nan [12]) sum bs)
  let a0 := fpAdd (nan [14]) dif bs
  let a1 := fpMul (nan [16]) f64Two (fpSub (nan [15]) am apc)
  let a2 := fpSub (nan [17]) dif bs
  { hpAlpha := hpAlpha
    b0 := fpDiv (nan [18]) b0 a0
    b1 := fpDiv (nan [19]) b1 a0
    b2 := fpDiv (nan [20]) b2 a0
    a1 := fpDiv (nan [21]) a1 a0
    a2 := fpDiv (nan [22]) a2 a0 }

/-- Every filter coefficient of a sample rate (40_kweight.md R69, R70). -/
def coeffsOf (nan : NaNs) (p : Config.Params) (fs : Nat) : Coeffs :=
  let a := mathPow f64Ten (fpDiv (nan [1]) p.shGainDb f64Forty)
  let w0 := angleOf (nan.part 2) p.shF0 fs
  shelfCoeffs (nan.part 4) (hpAlphaOf (nan.part 0) p fs) a (mathCos w0) (mathSin w0)
    (shelfBeta (nan.part 3) p.shS a)

/-- CONFIGURE past its checks (45_control.md R101). -/
def applyConfig (fs ch : Nat) (s : State) : State :=
  { s with
    status :=
      { s.status.raiseIf (!s.ana.part.isEmpty || !s.dyn.part.isEmpty) .partDrop with
        aOpen := true
        tgtSet := false
        configured := true }
    cfg :=
      { fs := BitVec.ofNat 64 fs
        ch := BitVec.ofNat 64 ch
        blockSize := BitVec.ofNat 64 (blockSizeOf fs)
        hopSize := BitVec.ofNat 64 (hopSizeOf fs)
        rampFrames := BitVec.ofNat 64 (rampFramesOf fs) }
    coef := coeffsOf (s.nans.part 0) s.build fs
    con :=
      { s.con with
        atkCoef := timeCoefOf (s.nans.part 1) s.build.atkT fs
        relCoef := timeCoefOf (s.nans.part 2) s.build.relT fs }
    ana := Analysis.fresh s.build.chMax
    dyn := Dynamics.identity
    nanSeq := s.nanSeq + 1 }

/-- CONFIGURE's operand checks, in their order: the error, or none (45_control.md R101; 60_exceptions.md R109). -/
def configError (p : Config.Params) (fs ch : Nat) : Option Err :=
  if fs < p.fsMin ∨ p.fsMax < fs then some .badRate
  else if p.chMax < ch then some .badChannels
  else if p.ringDepth < blockSizeOf fs * ch then some .ringTooSmall
  else none

/-- CONFIGURE(fs, ch) with its operands assembled from the command word: fs = FS, ch = CHM1 + 1 (30_encoding.md R53;
45_control.md R101). -/
def configure (fs : BitVec 20) (chm1 : BitVec 4) (s : State) : State :=
  match configError s.build fs.toNat (chm1.toNat + 1) with
  | some e => raiseError e s
  | none => applyConfig fs.toNat (chm1.toNat + 1) s

/-- WRITE_CTRL (45_control.md R104). -/
def writeCtrl (v : Word) (s : State) : State :=
  { s with
    status := s.status.raiseIf (!s.ana.part.isEmpty || !s.dyn.part.isEmpty) .partDrop
    ana := { s.ana with part := [] }
    dyn := { s.dyn with part := [] }
    ctrl := v &&& 0xFF#64 }

/-- WRITE_SIZE's checks before the range: configured, and no session under way (45_control.md R103). -/
def sizeBusy (s : State) : Option Err :=
  if !s.status.configured then some .wrNotConfigured
  else if s.status.aOpen && (s.ana.frames != 0 || !s.ana.part.isEmpty) then some .wrSessionBusy
  else none

/-- The range check of BLOCK_SIZE (45_control.md R103). The products are on naturals. -/
abbrev blockSizeBad (s : State) (v : Word) : Prop :=
  v.toNat < 1 ∨ v.toNat < s.cfg.hopSize.toNat ∨ s.build.ringDepth < v.toNat * s.cfg.ch.toNat

/-- The range check of HOP_SIZE (45_control.md R103). -/
abbrev hopSizeBad (s : State) (v : Word) : Prop := v.toNat < 1 ∨ s.cfg.blockSize.toNat < v.toNat

/-- A write of BLOCK_SIZE (45_control.md R103). -/
def writeBlockSize (v : Word) (s : State) : State :=
  match sizeBusy s with
  | some e => raiseError e s
  | none =>
    if blockSizeBad s v then raiseError .wrRange s else { s with cfg := { s.cfg with blockSize := v } }

/-- A write of HOP_SIZE (45_control.md R103). -/
def writeHopSize (v : Word) (s : State) : State :=
  match sizeBusy s with
  | some e => raiseError e s
  | none => if hopSizeBad s v then raiseError .wrRange s else { s with cfg := { s.cfg with hopSize := v } }

/-- The bits of IRQ_EN that exist (10_state.md R22; 45_control.md R102). -/
def irqMask : Word := 0x000000000001FF00#64

/-- The seven commands (30_encoding.md R54). -/
def runCommand (c : Command) (s : State) : State :=
  match c with
  | .nop => doNothing s
  | .configure fs chm1 => configure fs chm1 s
  | .aReset => sessionReset s
  | .aFinalize => finalize s
  | .dSetTarget => setTarget s
  | .dFlush => dynFlush s
  | .dReset => dynReset s

/-- The error that a rejected command word raises (30_encoding.md R55; 45_control.md R99). -/
def CmdReject.err : CmdReject → Err
  | .illegalOpcode => .illegalOpcode
  | .reservedBits => .reservedBits

/-- DISPATCH (45_control.md R99): the decoding checks, then the command's own rule. -/
def dispatchCommand (cw : Word) (s : State) : State :=
  match decodeCommand cw with
  | .error r => raiseError (CmdReject.err r) s
  | .ok c => runCommand c s

/-- The write rule of every register (45_control.md R102); a write to a read-only register raises BUS_READONLY
(20_memory.md R40). -/
def writeReg (r : Reg) (v : Word) (s : State) : State :=
  match r with
  | .ctrl => writeCtrl v s
  | .irqEn => { s with irqEn := v &&& irqMask }
  | .status => { s with status := s.status.w1c v }
  | .cmd => dispatchCommand v s
  | .blockSize => writeBlockSize v s
  | .hopSize => writeHopSize v s
  | .rampFrames => { s with cfg := { s.cfg with rampFrames := v } }
  | .hpAlpha => { s with coef := { s.coef with hpAlpha := v } }
  | .bqB0 => { s with coef := { s.coef with b0 := v } }
  | .bqB1 => { s with coef := { s.coef with b1 := v } }
  | .bqB2 => { s with coef := { s.coef with b2 := v } }
  | .bqA1 => { s with coef := { s.coef with a1 := v } }
  | .bqA2 => { s with coef := { s.coef with a2 := v } }
  | .absThr => { s with con := { s.con with absThr := v } }
  | .relFactor => { s with con := { s.con with relFactor := v } }
  | .lufsCal => { s with con := { s.con with lufsCal := v } }
  | .limThr => { s with con := { s.con with limThr := v } }
  | .atkCoef => { s with con := { s.con with atkCoef := v } }
  | .relCoef => { s with con := { s.con with relCoef := v } }
  | .minGainDb => { s with con := { s.con with minGainDb := v } }
  | .maxGainDb => { s with con := { s.con with maxGainDb := v } }
  | .tgtMeas => { s with tgt := { s.tgt with meas := v } }
  | .tgtRef => { s with tgt := { s.tgt with ref := v } }
  | .id | .param0 | .param1 | .cfgFs | .cfgCh | .aFrames | .aNblk | .aNemit | .pFrames
  | .resLufs | .resNabs | .resNrel | .resGated | .dCurGain | .dTgtGain | .dEnv | .dRemain
  | .aPart | .pPart => raiseError .busReadonly s

/-- The meaning of NOP. -/
def execNop (s : State) : Host.Outcome State Fault Refusal := .next (doNothing s)

/-- The meaning of CONFIGURE. -/
def execConfigure (fs : BitVec 20) (chm1 : BitVec 4) (s : State) : Host.Outcome State Fault Refusal :=
  .next (configure fs chm1 s)

end Sys2Proof.Machine
end

