-- ==== Sys2Proof/Machine/Bus.lean ====
section
/-! DEFINITION. The bus operations REG_READ and REG_WRITE (20_memory.md R39, R40), and what the host does beside the
operations of the opcode table: taking a POUT word (R45) and hardware reset (70_reset_and_hazards.md R120). -/

namespace Sys2Proof.Machine

/-- What the bus returns to the host for a read (20_memory.md R39). -/
def State.respond (s : State) (ok : Bool) (data : Word) : State := { s with busResp := some ⟨data, ok⟩ }

/-- `MemRead(addr, n)` (20_memory.md R39): on an error the error is recorded and (0, ERR) returned. -/
def memRead (addr : Addr) (n : Nat) (s : State) : State :=
  match busCheck s.build addr n with
  | .error e => (raiseError e s).respond false 0#64
  | .ok pl => s.respond true (readPlace s pl)

/-- A write that passed the bus checks: a register's write rule, or BUS_READONLY (20_memory.md R40). -/
def writePlace (pl : Place) (v : Word) (s : State) : State :=
  match pl with
  | .reg r => if r.access = .ro then raiseError .busReadonly s else writeReg r v s
  | .filter _ _ => raiseError .busReadonly s
  | .blk _ => raiseError .busReadonly s

/-- `MemWrite(addr, n, v)` (20_memory.md R40). -/
def memWrite (addr : Addr) (n : Nat) (v : Word) (s : State) : State :=
  match busCheck s.build addr n with
  | .error e => raiseError e s
  | .ok pl => writePlace pl v s

/-- The host takes the oldest POUT word (20_memory.md R45, R46; 30_encoding.md R62). From an empty POUT it takes nothing
(log 9). -/
def takeWord (s : State) : State := { s with taken := s.pout.head?, pout := s.pout.tail }

/-- Hardware reset (70_reset_and_hazards.md R120): every piece of the spec's state takes its reset value. The build, the
host's coming events and the counter of free values are not KWLD's state and stay (log 10). -/
def hardwareReset (s : State) : State :=
  { State.resetOf s.build with events := s.events, nanSeq := s.nanSeq }

/-- The meaning of REG_READ. -/
def execRegRead (addr : Addr) (n : Nat) (s : State) : Host.Outcome State Fault Refusal := .next (memRead addr n s)

/-- The meaning of REG_WRITE. -/
def execRegWrite (addr : Addr) (n : Nat) (v : Word) (s : State) : Host.Outcome State Fault Refusal :=
  .next (memWrite addr n v s)

end Sys2Proof.Machine
end

