-- ==== Sys2Proof/Machine/Dispatch.lean ====
section
/-! DEFINITION. One arm per operation of opcode_table.json, each one call of its meaning. -/

namespace Sys2Proof.Machine

def exec (i : Instr) (s : State) : Host.Outcome State Fault Refusal :=
  match i with
  | .nop => Sys2Proof.Machine.execNop s
  | .configure fs chm1 => Sys2Proof.Machine.execConfigure fs chm1 s
  | .aReset => Sys2Proof.Machine.execAReset s
  | .aFinalize => Sys2Proof.Machine.execAFinalize s
  | .dSetTarget => Sys2Proof.Machine.execDSetTarget s
  | .dFlush => Sys2Proof.Machine.execDFlush s
  | .dReset => Sys2Proof.Machine.execDReset s
  | .regRead addr n => Sys2Proof.Machine.execRegRead addr n s
  | .regWrite addr n v => Sys2Proof.Machine.execRegWrite addr n v s
  | .aBeat w => Sys2Proof.Machine.execABeat w s
  | .pBeat w => Sys2Proof.Machine.execPBeat w s

end Sys2Proof.Machine
end

