-- ==== Sys2Proof/Machine/Step.lean ====
section
/-! DEFINITION. One step of KWLD: one host event, whole (20_memory.md R44, R46). -/

namespace Sys2Proof.Machine

/-- The host's next event, served completely before the next one begins (20_memory.md R46). An operation of the opcode
table runs by `exec`; the two events of no row have their own effect. With no event to come KWLD does nothing and keeps
all its state (60_exceptions.md R119). -/
def step (s : State) : Host.Outcome State Fault Refusal :=
  match s.events with
  | [] => .next s
  | e :: rest =>
    match decode e with
    | .ok i => exec i { s with events := rest }
    | .error .takesWord => .next (takeWord { s with events := rest })
    | .error .resetLine => .next (hardwareReset { s with events := rest })

/-- The state with the transaction of a table row's bits put in front of the host's events, so that the next step serves
exactly it (log 11). -/
def State.withFetchWord (s : State) (nbits w : Nat) : State :=
  match tableEvent nbits w with
  | some e => { s with events := e :: s.events }
  | none => s

end Sys2Proof.Machine
end

