-- ==== Sys2Proof/Safety.lean ====
section
/-! DEFINITION. What counts as a safe state: the invariant of every state that a legal build can reach. Each clause names
the rule of spec/ that states it. -/

namespace Sys2Proof.Machine

/-- The build is legal (00_scope.md R6), and the reserved bits of CTRL and IRQ_EN are 0 (10_state.md R21, R22). -/
abbrev InvRegs (s : State) : Prop :=
  s.build.Legal ∧ s.ctrl &&& 0xFF#64 = s.ctrl ∧ s.irqEn &&& irqMask = s.irqEn

/-- Block memory is in canonical form and lies inside its window (20_memory.md R38); A_NBLK counts stored entries and
never exceeds BLK_DEPTH nor A_NEMIT (10_state.md R27). -/
abbrev InvMemory (s : State) : Prop :=
  s.mem.wf = true ∧ (∀ c ∈ s.mem, blkBase ≤ c.1 ∧ c.1 < blkBase + 8 * s.build.blkDepth) ∧
    s.ana.nblk ≤ s.build.blkDepth ∧ s.ana.nblk ≤ s.ana.nemit

/-- While unconfigured: CFG_FS, CFG_CH and the sizes are 0, and no session and no target exists (10_state.md R25;
70_reset_and_hazards.md R120). -/
abbrev Unconfigured (s : State) : Prop :=
  s.cfg.fs = 0#64 ∧ s.cfg.ch = 0#64 ∧ s.cfg.blockSize = 0#64 ∧ s.cfg.hopSize = 0#64 ∧
    s.status.aOpen = false ∧ s.status.tgtSet = false

/-- While configured: the rate and the channel count are accepted ones (45_control.md R101), and
1 ≤ HOP_SIZE ≤ BLOCK_SIZE, BLOCK_SIZE * CFG_CH ≤ RING_DEPTH (10_state.md R26). -/
abbrev Configured (s : State) : Prop :=
  s.build.fsMin ≤ s.cfg.fs.toNat ∧ s.cfg.fs.toNat ≤ s.build.fsMax ∧
    1 ≤ s.cfg.ch.toNat ∧ s.cfg.ch.toNat ≤ s.build.chMax ∧
    1 ≤ s.cfg.hopSize.toNat ∧ s.cfg.hopSize.toNat ≤ s.cfg.blockSize.toNat ∧
    s.cfg.blockSize.toNat * s.cfg.ch.toNat ≤ s.build.ringDepth

/-- The configuration clauses. -/
abbrev InvConfig (s : State) : Prop :=
  (s.status.configured = false → Unconfigured s) ∧ (s.status.configured = true → Configured s)

/-- There is a filter state for each of the CH_MAX channels (10_state.md R33), every frame of RB has CFG_CH samples
(R35), and a partial frame is shorter than a frame (R27). -/
abbrev InvShape (s : State) : Prop :=
  s.ana.filter.length = s.build.chMax ∧ (∀ frame ∈ s.ana.rb, frame.length = s.cfg.ch.toNat) ∧
    s.ana.part.length < max s.cfg.ch.toNat 1 ∧ s.dyn.part.length < max s.cfg.ch.toNat 1

/-- The number of blocks computed after `frames` frames with block B and hop H (41_block_energy.md R75). -/
def blocksAfter (b h frames : Nat) : Nat := if frames < b then 0 else (frames - b) / h + 1

/-- The frames that RB then holds (10_state.md R35). -/
def ringAfter (b h frames : Nat) : Nat := if frames < b then frames else b - h + (frames - b) % h

/-- The session clauses: RB and APART are empty while no session is open (10_state.md R35); while one is open, A_NEMIT and
the length of RB are what A_FRAMES and the sizes determine (R35; 41_block_energy.md R75). -/
abbrev InvSession (s : State) : Prop :=
  (s.status.aOpen = false → s.ana.rb = [] ∧ s.ana.part = []) ∧
    (s.status.aOpen = true →
      s.ana.nemit = blocksAfter s.cfg.blockSize.toNat s.cfg.hopSize.toNat s.ana.frames ∧
        s.ana.rb.length = ringAfter s.cfg.blockSize.toNat s.cfg.hopSize.toNat s.ana.frames)

/-- RES_VALID is 1 exactly when RES_LUFS is finite, and an invalid result is -inf with a gated mean of +0.0
(42_gate_aggregate.md R84; 10_state.md R31). -/
abbrev InvResults (s : State) : Prop :=
  s.status.resValid = fpIsFinite s.res.lufs ∧
    (s.status.resValid = false → s.res.lufs = f64NegInf ∧ s.res.gated = f64Zero)

/-- Before TGT_SET the gain and its target are 1.0 and no ramp runs (44_dynamics.md R90). -/
abbrev InvDynamics (s : State) : Prop :=
  s.status.tgtSet = false → s.dyn.curGain = f64One ∧ s.dyn.tgtGain = f64One ∧ s.dyn.remain = 0#64

/-- The invariant of KWLD. -/
abbrev Inv (s : State) : Prop :=
  InvRegs s ∧ InvMemory s ∧ InvConfig s ∧ InvShape s ∧ InvSession s ∧ InvResults s ∧ InvDynamics s

end Sys2Proof.Machine
end

