-- ==== Sys2Proof/Certificates/Slice0/Obligations.lean ====
section
/-! DEFINITION. The statements about KWLD for the provers. Each docstring names the rules of spec/ it formalises. -/

open Sys2Proof Sys2Proof.Machine

/-! ## Encoding -/

/-- R51 to R55: the decoder gives back every well-formed operation from its own transaction. Which transaction is which
operation, and so what `wf` shuts out and that an 8-byte write to CMD of a word that is no command decodes as regWrite,
is the model's choice (log 12); CommandWriteIsCommand covers the writes that `wf` shuts out. -/
def Obligations.DecodeInvertsEncode : Prop := ∀ i : Instr, i.wf = true → decode (encode i) = .ok i

/-- R51 to R55: a transaction that decodes to an operation is that operation's own encoding, and the operation is well
formed. That each transaction has one meaning is the model's choice (log 12): by R40, R99 and R102 the 8-byte write of a
command word to CMD is a REG_WRITE as well (CommandWriteIsCommand states the two equal). -/
def Obligations.EncodeInvertsDecode : Prop :=
  ∀ (e : HostEvent) (i : Instr), decode e = .ok i → encode i = e ∧ i.wf = true

/-- R54: the words the decoder accepts are exactly those of the seven match / mask rows. -/
def Obligations.CommandWordsAreTheTable : Prop :=
  ∀ cw : Word, (∃ c, decodeCommand cw = .ok c) ↔
    ∃ row ∈ [(0x0000000000000000#64, 0xFFFFFFFFFFFFFFFF#64), (0x0000000000000001#64, 0xFFFFFFFF000000FF#64),
        (0x0000000000000002#64, 0xFFFFFFFFFFFFFFFF#64), (0x0000000000000003#64, 0xFFFFFFFFFFFFFFFF#64),
        (0x0000000000000010#64, 0xFFFFFFFFFFFFFFFF#64), (0x0000000000000011#64, 0xFFFFFFFFFFFFFFFF#64),
        (0x0000000000000012#64, 0xFFFFFFFFFFFFFFFF#64)], cw &&& row.2 = row.1

/-- R52 to R54: words written out from the encoding tables decode to the commands they stand for. -/
def Obligations.WrittenWordsDecode : Prop :=
  decodeCommand 0x0000000000000000#64 = .ok .nop ∧
    decodeCommand 0x000000000BB80101#64 = .ok (.configure 48000#20 1#4) ∧
    decodeCommand 0x0000000001F40001#64 = .ok (.configure 8000#20 0#4) ∧
    decodeCommand 0x0000000000000002#64 = .ok .aReset ∧ decodeCommand 0x0000000000000003#64 = .ok .aFinalize ∧
    decodeCommand 0x0000000000000010#64 = .ok .dSetTarget ∧ decodeCommand 0x0000000000000011#64 = .ok .dFlush ∧
    decodeCommand 0x0000000000000012#64 = .ok .dReset ∧
    decodeCommand 0x0000000000000004#64 = .error .illegalOpcode ∧
    decodeCommand 0x0000000100000004#64 = .error .illegalOpcode ∧
    decodeCommand 0x0000000000000102#64 = .error .reservedBits ∧
    decodeCommand 0x0000000100000001#64 = .error .reservedBits

/-! ## The step -/

/-- R46: a step serves the host's next event by running exactly the operation it decodes to; the model adds only the
removal of the event. The list events is the model's own (log 2). -/
def Obligations.StepRunsDecodedOperation : Prop :=
  ∀ (s : State) (e : HostEvent) (rest : List HostEvent) (i : Instr),
    s.events = e :: rest → decode e = .ok i → step s = exec i { s with events := rest }

/-- R119 and R45: with no event to come nothing changes; the host takes the oldest POUT word, and the next oldest
comes to the front. The fields events and taken are the model's own (log 2, log 8). -/
def Obligations.IdleAndTake : Prop :=
  (∀ s : State, s.events = [] → step s = .next s) ∧
    ∀ (s : State) (rest : List HostEvent) (w : Beat) (ws : List Beat),
      s.events = .take :: rest → s.pout = w :: ws →
        step s = .next { s with events := rest, taken := some w, pout := ws }

/-- R120: after hardware reset every register reads its reset value, and every list, window and memory is empty or
zero. The event is the model's form of the reset line (log 10). -/
def Obligations.HardwareResetValues : Prop :=
  ∀ (s : State) (rest : List HostEvent), s.events = .hardReset :: rest →
    ∃ t, step s = .next t ∧
      (∀ r ∈ [Reg.ctrl, .irqEn, .status, .cmd, .cfgFs, .cfgCh, .blockSize, .hopSize, .rampFrames, .aFrames, .aNblk,
          .aNemit, .pFrames, .aPart, .pPart, .hpAlpha, .bqB0, .bqB1, .bqB2, .bqA1, .bqA2, .atkCoef, .relCoef,
          .resNabs, .resNrel, .resGated, .dRemain], readReg t r = 0#64) ∧
      readReg t .id = 0x4B574C4400070001#64 ∧
      readReg t .param0 = param0Word s.build ∧ readReg t .param1 = param1Word s.build ∧
      readReg t .absThr = 0x3E7F791EC6E1D5B7#64 ∧ readReg t .relFactor = 0x3FB999999999999A#64 ∧
      readReg t .lufsCal = 0x3FE61CAC083126E9#64 ∧ readReg t .limThr = 0x3FEE666666666666#64 ∧
      readReg t .minGainDb = 0xC038000000000000#64 ∧ readReg t .maxGainDb = 0x4038000000000000#64 ∧
      readReg t .tgtMeas = 0xFFF0000000000000#64 ∧ readReg t .tgtRef = 0xC02C000000000000#64 ∧
      readReg t .resLufs = 0xFFF0000000000000#64 ∧ readReg t .dCurGain = 0x3FF0000000000000#64 ∧
      readReg t .dTgtGain = 0x3FF0000000000000#64 ∧ readReg t .dEnv = 0x3FF0000000000000#64 ∧
      (∀ c k, readPlace t (.filter c k) = 0#64) ∧ (∀ i, readPlace t (.blk i) = 0#64) ∧
      t.ana.filter.length = s.build.chMax ∧ t.ana.rb = [] ∧ t.ana.part = [] ∧ t.dyn.part = [] ∧ t.pout = [] ∧
      irq t = false

/-- 93 section 1 and R108: KWLD never halts: from every state, every number of steps ends in a next state. -/
def Obligations.MachineNeverStops : Prop :=
  ∀ (k : Nat) (s : State), ∃ t, Host.Core.run core k s = .next t

/-- R99: an 8-byte write of any word to CMD is DISPATCH: the checks in their order, then the command's own rule. -/
def Obligations.CommandDispatch : Prop :=
  ∀ (cw : Word) (s : State),
    (cw.extractLsb' 0 8 ∉ [0x00#8, 0x01#8, 0x02#8, 0x03#8, 0x10#8, 0x11#8, 0x12#8] →
      exec (.regWrite 0x000030#24 8 cw) s = .next (raiseError .illegalOpcode s)) ∧
    (cw.extractLsb' 0 8 ∈ [0x00#8, 0x01#8, 0x02#8, 0x03#8, 0x10#8, 0x11#8, 0x12#8] →
      (cw.extractLsb' 32 32 ≠ 0#32 ∨ (cw.extractLsb' 0 8 ≠ 0x01#8 ∧ cw.extractLsb' 8 24 ≠ 0#24) →
        exec (.regWrite 0x000030#24 8 cw) s = .next (raiseError .reservedBits s)) ∧
      (cw.extractLsb' 32 32 = 0#32 → (cw.extractLsb' 0 8 = 0x01#8 ∨ cw.extractLsb' 8 24 = 0#24) →
        (cw.extractLsb' 0 8 ≠ 0x00#8 → cw.extractLsb' 0 8 ≠ 0x01#8 → s.status.configured = false →
          exec (.regWrite 0x000030#24 8 cw) s = .next (raiseError .notConfigured s)) ∧
        ∃ c, decodeCommand cw = .ok c ∧ exec (.regWrite 0x000030#24 8 cw) s = exec c.toInstr s))

/-- R54, R62 and R99: every command, issued as the 8-byte write of its word to CMD, is that command. -/
def Obligations.CommandWriteIsCommand : Prop :=
  ∀ (c : Command) (s : State), exec (.regWrite cmdAddr 8 (encodeCommand c)) s = exec c.toInstr s

/-! ## The host bus -/

/-- R18, R20 and R39: each of the 42 register offsets reads its register, and the read changes nothing in KWLD; in a
legal build the fields of PARAM0 and PARAM1 are the build's parameters (RING_DEPTH where it fits its field: log 16).
The latch busResp is the model's own (log 8). -/
def Obligations.RegisterReads : Prop :=
  (∀ p : Config.Params, p.Legal →
    ((param0Word p).extractLsb' 0 8).toNat = p.chMax ∧ ((param0Word p).extractLsb' 8 20).toNat = p.fsMin ∧
      ((param0Word p).extractLsb' 28 20).toNat = p.fsMax ∧ (param0Word p).extractLsb' 48 16 = 0#16 ∧
      ((param1Word p).extractLsb' 0 32).toNat = p.blkDepth ∧
      (p.ringDepth < 2 ^ 32 → ((param1Word p).extractLsb' 32 32).toNat = p.ringDepth)) ∧
  ∀ s : State, ∀ row ∈ [(0x000000#24, 0x4B574C4400070001#64), (0x000008#24, param0Word s.build),
      (0x000010#24, param1Word s.build), (0x000018#24, s.ctrl), (0x000020#24, s.irqEn), (0x000028#24, statusWord s),
      (0x000030#24, 0#64), (0x000038#24, s.cfg.fs), (0x000040#24, s.cfg.ch), (0x000048#24, s.cfg.blockSize),
      (0x000050#24, s.cfg.hopSize), (0x000058#24, s.cfg.rampFrames), (0x000060#24, BitVec.ofNat 64 s.ana.frames),
      (0x000068#24, BitVec.ofNat 64 s.ana.nblk), (0x000070#24, BitVec.ofNat 64 s.ana.nemit),
      (0x000078#24, BitVec.ofNat 64 s.dyn.frames), (0x000080#24, s.coef.hpAlpha), (0x000088#24, s.coef.b0),
      (0x000090#24, s.coef.b1), (0x000098#24, s.coef.b2), (0x0000A0#24, s.coef.a1), (0x0000A8#24, s.coef.a2),
      (0x0000B0#24, s.con.absThr), (0x0000B8#24, s.con.relFactor), (0x0000C0#24, s.con.lufsCal),
      (0x0000C8#24, s.con.limThr), (0x0000D0#24, s.con.atkCoef), (0x0000D8#24, s.con.relCoef),
      (0x0000E0#24, s.con.minGainDb), (0x0000E8#24, s.con.maxGainDb), (0x0000F0#24, s.tgt.meas),
      (0x0000F8#24, s.tgt.ref), (0x000100#24, s.res.lufs), (0x000108#24, s.res.nabs), (0x000110#24, s.res.nrel),
      (0x000118#24, s.res.gated), (0x000120#24, s.dyn.curGain), (0x000128#24, s.dyn.tgtGain), (0x000130#24, s.dyn.env),
      (0x000138#24, s.dyn.remain), (0x000140#24, BitVec.ofNat 64 s.ana.part.length),
      (0x000148#24, BitVec.ofNat 64 s.dyn.part.length)],
    exec (.regRead row.1 8) s = .next { s with busResp := some ⟨row.2, true⟩ }

/-- R33, R34, R38 and R39: the windows: channel c's four state words at 0x800 + 32c, and BLK[i] at 0x100000 + 8i,
which reads 0 from A_NBLK on. The latch busResp is the model's own (log 8). -/
def Obligations.WindowReads : Prop :=
  (∀ (s : State) (c : Nat) (f : FilterState), s.build.Legal → c < s.build.chMax → s.ana.filter[c]? = some f →
    ∀ row ∈ [(0, f.x1), (8, f.y1), (16, f.s1), (24, f.s2)],
      exec (.regRead (BitVec.ofNat 24 (0x800 + 32 * c + row.1)) 8) s = .next { s with busResp := some ⟨row.2, true⟩ }) ∧
  ∀ (s : State) (i : Nat), s.build.Legal → i < s.build.blkDepth →
    exec (.regRead (BitVec.ofNat 24 (0x100000 + 8 * i)) 8) s =
      .next { s with busResp := some ⟨if i < s.ana.nblk then blkRead s.mem i else 0#64, true⟩ }

/-- R23 and R96: the bits of STATUS as the host reads it. -/
def Obligations.StatusWordBits : Prop :=
  ∀ s : State,
    (statusWord s).getLsbD 0 = s.status.configured ∧ (statusWord s).getLsbD 1 = s.status.aOpen ∧
    (statusWord s).getLsbD 2 = s.status.resValid ∧ (statusWord s).getLsbD 3 = s.status.tgtSet ∧
    ((statusWord s).getLsbD 4 = true ↔ s.status.tgtSet = true ∧
      ¬ (fpEq s.dyn.curGain f64One = true ∧ fpEq s.dyn.tgtGain f64One = true ∧ fpEq s.dyn.env f64One = true ∧
        s.dyn.remain = 0#64)) ∧
    (statusWord s).extractLsb' 5 3 = 0#3 ∧
    (∀ b : Sticky, (statusWord s).getLsbD b.bit = s.status.get b) ∧
    (statusWord s).extractLsb' 17 7 = 0#7 ∧ (statusWord s).extractLsb' 24 8 = s.status.errCode ∧
    (statusWord s).extractLsb' 32 32 = 0#32

/-- R38, R39, R40, R43 and R109: the bus errors of reads and writes, first failing check first. The latch busResp is
the model's own (log 8). -/
def Obligations.BusErrors : Prop :=
  ∀ (s : State) (addr : Addr) (n : Nat) (v : Word), s.build.Legal →
    ∀ e, (n ≠ 8 ∧ e = Err.busSize) ∨ (n = 8 ∧ addr.toNat % 8 ≠ 0 ∧ e = .busMisaligned) ∨
        (n = 8 ∧ addr.toNat % 8 = 0 ∧ ¬ addr.toNat < 0x150 ∧
          ¬ (0x800 ≤ addr.toNat ∧ addr.toNat < 0x800 + 32 * s.build.chMax) ∧
          ¬ (0x100000 ≤ addr.toNat ∧ addr.toNat < 0x100000 + 8 * s.build.blkDepth) ∧ e = .busUnmapped) →
      exec (.regRead addr n) s = .next { raiseError e s with busResp := some ⟨0#64, false⟩ } ∧
        exec (.regWrite addr n v) s = .next (raiseError e s)

/-- R18 and R40: a write to a read-only register or to a window raises BUS_READONLY. -/
def Obligations.ReadOnlyWrites : Prop :=
  ∀ (s : State) (addr : Addr) (v : Word), s.build.Legal → addr.toNat % 8 = 0 →
    (addr.toNat ∈ [0x000, 0x008, 0x010, 0x038, 0x040, 0x060, 0x068, 0x070, 0x078, 0x100, 0x108, 0x110, 0x118, 0x120,
        0x128, 0x130, 0x138, 0x140, 0x148] ∨
      (0x800 ≤ addr.toNat ∧ addr.toNat < 0x800 + 32 * s.build.chMax) ∨
      (0x100000 ≤ addr.toNat ∧ addr.toNat < 0x100000 + 8 * s.build.blkDepth)) →
    exec (.regWrite addr 8 v) s = .next (raiseError .busReadonly s)

/-- R102: the plain stores of every RW register, each with its frame, and IRQ_EN's masked store. -/
def Obligations.RegisterWrites : Prop :=
  ∀ (s : State) (v : Word), ∀ row ∈ [
      (0x000020#24, { s with irqEn := v &&& 0x1FF00#64 }),
      (0x000058#24, { s with cfg := { s.cfg with rampFrames := v } }),
      (0x000080#24, { s with coef := { s.coef with hpAlpha := v } }),
      (0x000088#24, { s with coef := { s.coef with b0 := v } }),
      (0x000090#24, { s with coef := { s.coef with b1 := v } }),
      (0x000098#24, { s with coef := { s.coef with b2 := v } }),
      (0x0000A0#24, { s with coef := { s.coef with a1 := v } }),
      (0x0000A8#24, { s with coef := { s.coef with a2 := v } }),
      (0x0000B0#24, { s with con := { s.con with absThr := v } }),
      (0x0000B8#24, { s with con := { s.con with relFactor := v } }),
      (0x0000C0#24, { s with con := { s.con with lufsCal := v } }),
      (0x0000C8#24, { s with con := { s.con with limThr := v } }),
      (0x0000D0#24, { s with con := { s.con with atkCoef := v } }),
      (0x0000D8#24, { s with con := { s.con with relCoef := v } }),
      (0x0000E0#24, { s with con := { s.con with minGainDb := v } }),
      (0x0000E8#24, { s with con := { s.con with maxGainDb := v } }),
      (0x0000F0#24, { s with tgt := { s.tgt with meas := v } }),
      (0x0000F8#24, { s with tgt := { s.tgt with ref := v } })],
    exec (.regWrite row.1 8 v) s = .next row.2

/-- R105: a write to STATUS clears each sticky bit written as 1 and changes nothing else. -/
def Obligations.StatusWriteClears : Prop :=
  ∀ (s : State) (v : Word), ∃ st,
    exec (.regWrite 0x000028#24 8 v) s = .next { s with status := st } ∧
      (∀ b : Sticky, st.get b = (s.status.get b && !v.getLsbD b.bit)) ∧
      st.configured = s.status.configured ∧ st.aOpen = s.status.aOpen ∧ st.resValid = s.status.resValid ∧
      st.tgtSet = s.status.tgtSet ∧ st.errCode = s.status.errCode

/-- R104: a write to CTRL stores its low byte and drops both partial frames, with PART_DROP if either was not empty. -/
def Obligations.CtrlWriteDropsPartialFrames : Prop :=
  ∀ (s : State) (v : Word),
    exec (.regWrite 0x000018#24 8 v) s =
      .next { s with
        status := if s.ana.part ≠ [] ∨ s.dyn.part ≠ [] then { s.status with partDrop := true } else s.status
        ana := { s.ana with part := [] }
        dyn := { s.dyn with part := [] }
        ctrl := v &&& 0xFF#64 }

/-- R103: the validated writes of BLOCK_SIZE and HOP_SIZE, errors in their order. -/
def Obligations.SizeWrites : Prop :=
  ∀ (s : State) (v : Word),
    (s.status.configured = false → ∀ a ∈ [0x000048#24, 0x000050#24],
      exec (.regWrite a 8 v) s = .next (raiseError .wrNotConfigured s)) ∧
    (s.status.configured = true → s.status.aOpen = true → (s.ana.frames ≠ 0 ∨ s.ana.part ≠ []) →
      ∀ a ∈ [0x000048#24, 0x000050#24], exec (.regWrite a 8 v) s = .next (raiseError .wrSessionBusy s)) ∧
    (s.status.configured = true → ¬ (s.status.aOpen = true ∧ (s.ana.frames ≠ 0 ∨ s.ana.part ≠ [])) →
      exec (.regWrite 0x000048#24 8 v) s =
        (if v.toNat < 1 ∨ v.toNat < s.cfg.hopSize.toNat ∨ s.build.ringDepth < v.toNat * s.cfg.ch.toNat then
          .next (raiseError .wrRange s)
        else .next { s with cfg := { s.cfg with blockSize := v } }) ∧
      exec (.regWrite 0x000050#24 8 v) s =
        (if v.toNat < 1 ∨ s.cfg.blockSize.toNat < v.toNat then .next (raiseError .wrRange s)
        else .next { s with cfg := { s.cfg with hopSize := v } }))

/-! ## Errors and the interrupt -/

/-- R107 and R108: raising an error sets its class bit and ERRCODE, and changes nothing else. -/
def Obligations.RaisingRecordsOnly : Prop :=
  ∀ s : State, ∀ row ∈ [(Err.illegalOpcode, 0x01#8, Sticky.cmdErr), (.reservedBits, 0x02#8, .cmdErr),
      (.notConfigured, 0x03#8, .cmdErr), (.badRate, 0x04#8, .cmdErr), (.badChannels, 0x05#8, .cmdErr),
      (.ringTooSmall, 0x06#8, .cmdErr), (.sessionClosed, 0x07#8, .cmdErr), (.wrSessionBusy, 0x11#8, .wrErr),
      (.wrRange, 0x12#8, .wrErr), (.wrNotConfigured, 0x13#8, .wrErr), (.busSize, 0x20#8, .busErr),
      (.busMisaligned, 0x21#8, .busErr), (.busUnmapped, 0x22#8, .busErr), (.busReadonly, 0x23#8, .busErr)],
    ∃ st, raiseError row.1 s = { s with status := st } ∧ st.errCode = row.2.1 ∧
      (∀ b, st.get b = (decide (b = row.2.2) || s.status.get b)) ∧
      st.configured = s.status.configured ∧ st.aOpen = s.status.aOpen ∧ st.resValid = s.status.resValid ∧
      st.tgtSet = s.status.tgtSet

/-- R108: errors are precise: an operation that changes ERRCODE has raised an error and changed nothing else (but a
read's response to the host). The latch busResp is the model's own (log 8). -/
def Obligations.ErrorsArePrecise : Prop :=
  ∀ (i : Instr) (s t : State), exec i s = .next t → t.status.errCode ≠ s.status.errCode →
    ∃ e, { t with busResp := s.busResp } = raiseError e s

/-- R106 and R112: no operation but a write to STATUS clears a sticky bit. -/
def Obligations.StickyBitsStay : Prop :=
  ∀ (i : Instr) (s t : State), exec i s = .next t → (∀ v, i ≠ .regWrite 0x000028#24 8 v) →
    ∀ b, s.status.get b = true → t.status.get b = true

/-- R110: the interrupt line is high exactly while an enabled sticky bit is set, and CLRSTAT (R62, R105) lowers it. -/
def Obligations.InterruptLine : Prop :=
  (∀ s : State, irq s = true ↔ ∃ b : Sticky, s.status.get b = true ∧ s.irqEn.getLsbD b.bit = true) ∧
    ∀ s : State, ∃ t, exec (.regWrite 0x000028#24 8 0x1FF00#64) s = .next t ∧ irq t = false

/-! ## Control commands -/

/-- R100: NOP is the word 0 and changes nothing, configured or not. -/
def Obligations.NopChangesNothing : Prop :=
  encodeCommand .nop = 0#64 ∧ ∀ s : State, exec .nop s = .next s

/-- R53, R101 and R109: CONFIGURE's operand errors, in their order. -/
def Obligations.ConfigureRejects : Prop :=
  ∀ (fs : BitVec 20) (chm1 : BitVec 4) (s : State),
    (fs.toNat < s.build.fsMin ∨ s.build.fsMax < fs.toNat →
      exec (.configure fs chm1) s = .next (raiseError .badRate s)) ∧
    (s.build.fsMin ≤ fs.toNat → fs.toNat ≤ s.build.fsMax →
      (s.build.chMax < chm1.toNat + 1 → exec (.configure fs chm1) s = .next (raiseError .badChannels s)) ∧
      (chm1.toNat + 1 ≤ s.build.chMax → s.build.ringDepth < (2 * fs.toNat + 2) / 5 * (chm1.toNat + 1) →
        exec (.configure fs chm1) s = .next (raiseError .ringTooSmall s)))

/-- R101: an accepted CONFIGURE sets the stream parameters and the sizes, opens a fresh session, returns the dynamics
engine to identity, drops partial frames, and keeps everything else. The advance of nanSeq is the model's own (log 3).
-/
def Obligations.ConfigureApplies : Prop :=
  ∀ (fs : BitVec 20) (chm1 : BitVec 4) (s : State), s.build.fsMin ≤ fs.toNat → fs.toNat ≤ s.build.fsMax →
    chm1.toNat + 1 ≤ s.build.chMax → (2 * fs.toNat + 2) / 5 * (chm1.toNat + 1) ≤ s.build.ringDepth →
    ∃ co atk rel, exec (.configure fs chm1) s =
      .next { s with
        status := { s.status with
          configured := true
          aOpen := true
          tgtSet := false
          partDrop := s.status.partDrop || decide (s.ana.part ≠ [] ∨ s.dyn.part ≠ []) }
        cfg := ⟨BitVec.ofNat 64 fs.toNat, BitVec.ofNat 64 (chm1.toNat + 1), BitVec.ofNat 64 ((2 * fs.toNat + 2) / 5),
          BitVec.ofNat 64 ((2 * fs.toNat + 2) / 5 / 4), BitVec.ofNat 64 ((fs.toNat + 5) / 10)⟩
        coef := co
        con := { s.con with atkCoef := atk, relCoef := rel }
        ana := ⟨List.replicate s.build.chMax ⟨0#64, 0#64, 0#64, 0#64⟩, [], [], 0, 0, 0⟩
        dyn := ⟨f64One, f64One, f64One, 0#64, [], 0⟩
        nanSeq := s.nanSeq + 1 }

/-- R69, R70 and R91: the coefficients an accepted CONFIGURE derives, in the spec's evaluation order (`n` holds the
patterns of NaN results, which are free). -/
def Obligations.ConfigureDerivesCoefficients : Prop :=
  ∀ (fs : BitVec 20) (chm1 : BitVec 4) (s : State), configError s.build fs.toNat (chm1.toNat + 1) = none →
    ∃ t, exec (.configure fs chm1) s = .next t ∧
      (∃ n : Nat → F64, (∀ j, fpIsNaN (n j) = true) ∧ t.coef.hpAlpha =
        mathExp (fpNeg (fpDiv (n 2) (fpMul (n 1) (fpMul (n 0) f64Two f64Pi) s.build.hpFc) (fpOfNat fs.toNat)))) ∧
      (∃ n : Nat → F64, (∀ j, fpIsNaN (n j) = true) ∧ t.con.atkCoef =
        mathExp (fpNeg (fpDiv (n 1) f64One (fpMul (n 0) s.build.atkT (fpOfNat fs.toNat))))) ∧
      (∃ n : Nat → F64, (∀ j, fpIsNaN (n j) = true) ∧ t.con.relCoef =
        mathExp (fpNeg (fpDiv (n 1) f64One (fpMul (n 0) s.build.relT (fpOfNat fs.toNat))))) ∧
      ∃ (n : Nat → F64) (a w0 beta b0 b1 b2 a0 a1 a2 : F64), (∀ j, fpIsNaN (n j) = true) ∧
        a = mathPow f64Ten (fpDiv (n 0) s.build.shGainDb f64Forty) ∧
        w0 = fpDiv (n 3) (fpMul (n 2) (fpMul (n 1) f64Two f64Pi) s.build.shF0) (fpOfNat fs.toNat) ∧
        beta = fpSqrt (n 10) (fpSub (n 9) (fpDiv (n 6) (fpAdd (n 5) (fpMul (n 4) a a) f64One) s.build.shS)
          (fpMul (n 8) (fpSub (n 7) a f64One) (fpSub (n 7) a f64One))) ∧
        b0 = fpMul (n 17) a (fpAdd (n 16) (fpAdd (n 13) (fpAdd (n 11) a f64One)
          (fpMul (n 12) (fpSub (n 14) a f64One) (mathCos w0))) (fpMul (n 15) beta (mathSin w0))) ∧
        b1 = fpMul (n 20) (fpMul (n 18) f64NegTwo a) (fpAdd (n 19) (fpSub (n 14) a f64One)
          (fpMul (n 21) (fpAdd (n 11) a f64One) (mathCos w0))) ∧
        b2 = fpMul (n 23) a (fpSub (n 22) (fpAdd (n 13) (fpAdd (n 11) a f64One)
          (fpMul (n 12) (fpSub (n 14) a f64One) (mathCos w0))) (fpMul (n 15) beta (mathSin w0))) ∧
        a0 = fpAdd (n 25) (fpSub (n 24) (fpAdd (n 11) a f64One) (fpMul (n 12) (fpSub (n 14) a f64One) (mathCos w0)))
          (fpMul (n 15) beta (mathSin w0)) ∧
        a1 = fpMul (n 27) f64Two (fpSub (n 26) (fpSub (n 14) a f64One)
          (fpMul (n 21) (fpAdd (n 11) a f64One) (mathCos w0))) ∧
        a2 = fpSub (n 28) (fpSub (n 24) (fpAdd (n 11) a f64One) (fpMul (n 12) (fpSub (n 14) a f64One) (mathCos w0)))
          (fpMul (n 15) beta (mathSin w0)) ∧
        t.coef.b0 = fpDiv (n 29) b0 a0 ∧ t.coef.b1 = fpDiv (n 30) b1 a0 ∧ t.coef.b2 = fpDiv (n 31) b2 a0 ∧
        t.coef.a1 = fpDiv (n 32) a1 a0 ∧ t.coef.a2 = fpDiv (n 33) a2 a0

/-! ## The analysis engine -/

/-- R63: an A beat that does not complete a frame is decoded and held, and nothing else changes. The advance of nanSeq
is the model's own (log 3). -/
def Obligations.ABeatHoldsSample : Prop :=
  ∀ (s : State) (w : Beat) (fmt : SampleFormat), s.status.configured = true → s.status.aOpen = true →
    sampleFormat (s.ctrl.extractLsb' 0 3) = some fmt → s.ana.part.length + 1 ≠ s.cfg.ch.toNat →
    ∃ nan, fpIsNaN nan = true ∧ exec (.aBeat w) s =
      .next { s with
        ana := { s.ana with part := s.ana.part ++ [dec nan fmt (s.ctrl.getLsbD 3) w] }
        nanSeq := s.nanSeq + 1 }

/-- R64, R66 and R67: an A beat that completes a frame but no block filters each channel's sample through stage A and
then stage B, appends the filtered frame to RB, counts it, and changes nothing else. The advance of nanSeq is the
model's own (log 3). -/
def Obligations.ABeatFiltersFrame : Prop :=
  ∀ (s : State) (w : Beat) (fmt : SampleFormat), s.status.configured = true → s.status.aOpen = true →
    sampleFormat (s.ctrl.extractLsb' 0 3) = some fmt → s.ana.part.length + 1 = s.cfg.ch.toNat →
    s.cfg.ch.toNat ≤ s.ana.filter.length → s.ana.rb.length + 1 < s.cfg.blockSize.toNat →
    ∃ (nan : F64) (z : List F64) (fl : List FilterState), fpIsNaN nan = true ∧
      exec (.aBeat w) s =
        .next { s with
          ana := { s.ana with
            part := [], rb := s.ana.rb ++ [z], frames := s.ana.frames + 1, filter := fl }
          nanSeq := s.nanSeq + 1 } ∧
      z.length = s.cfg.ch.toNat ∧ fl.length = s.ana.filter.length ∧
      (∀ c, s.cfg.ch.toNat ≤ c → fl[c]? = s.ana.filter[c]?) ∧
      ∀ (c : Nat) (f : FilterState) (x : F64), s.ana.filter[c]? = some f →
        (s.ana.part ++ [dec nan fmt (s.ctrl.getLsbD 3) w])[c]? = some x →
        ∃ (n : Nat → F64) (yA y : F64), (∀ j, fpIsNaN (n j) = true) ∧
          yA = fpMul (n 2) s.coef.hpAlpha (fpSub (n 1) (fpAdd (n 0) f.y1 x) f.x1) ∧
          y = fpAdd (n 4) (fpMul (n 3) s.coef.b0 yA) f.s1 ∧ z[c]? = some y ∧
          fl[c]? = some ⟨x, yA,
            fpAdd (n 8) (fpSub (n 7) (fpMul (n 5) s.coef.b1 yA) (fpMul (n 6) s.coef.a1 y)) f.s2,
            fpSub (n 11) (fpMul (n 9) s.coef.b2 yA) (fpMul (n 10) s.coef.a2 y)⟩

/-- R74, R76, R77 and R78: an A beat that fills a block computes its energy over the oldest BLOCK_SIZE filtered
frames, keeps it exactly when it is at least ABS_THR, appends a kept one at index A_NBLK or loses it with BLK_OVF when
block memory is full, drops the oldest HOP_SIZE frames, and changes nothing else. The advance of nanSeq is the model's
own (log 3). -/
def Obligations.ABeatEmitsBlock : Prop :=
  ∀ (s : State) (w : Beat) (fmt : SampleFormat), s.mem.wf = true → s.status.configured = true →
    s.status.aOpen = true → sampleFormat (s.ctrl.extractLsb' 0 3) = some fmt →
    s.ana.part.length + 1 = s.cfg.ch.toNat → s.cfg.blockSize.toNat ≤ s.ana.rb.length + 1 →
    ∃ (t : State) (ns : NaNs) (z : List F64) (nan e : F64), (∀ path, fpIsNaN (ns path) = true) ∧ fpIsNaN nan = true ∧
      exec (.aBeat w) s = .next t ∧
      (t.ana.filter, z) =
        filterFrame ns s.coef 0 s.ana.filter (s.ana.part ++ [dec (ns []) fmt (s.ctrl.getLsbD 3) w]) ∧
      e = fpDiv nan (((s.ana.rb ++ [z]).take s.cfg.blockSize.toNat).flatten.foldl
        (fun acc x => fpAdd nan acc (fpMul nan x x)) f64Zero) (fpOfNat (s.cfg.blockSize.toNat * s.cfg.ch.toNat)) ∧
      t.ana.rb = (s.ana.rb ++ [z]).drop s.cfg.hopSize.toNat ∧ t.ana.frames = s.ana.frames + 1 ∧
      t.ana.nemit = s.ana.nemit + 1 ∧ t.ana.part = [] ∧
      (∀ a, ¬ (0x100000 + 8 * s.ana.nblk ≤ a ∧ a < 0x100000 + 8 * s.ana.nblk + 8) → t.mem.byte a = s.mem.byte a) ∧
      (fpLe s.con.absThr e = true → s.ana.nblk < s.build.blkDepth →
        t.ana.nblk = s.ana.nblk + 1 ∧ blkRead t.mem s.ana.nblk = e ∧ t.status = s.status) ∧
      (fpLe s.con.absThr e = true → s.build.blkDepth ≤ s.ana.nblk →
        t.ana.nblk = s.ana.nblk ∧ t.mem = s.mem ∧ t.status = { s.status with blkOvf := true }) ∧
      (fpLe s.con.absThr e = false → t.ana.nblk = s.ana.nblk ∧ t.mem = s.mem ∧ t.status = s.status) ∧
      t = { s with ana := t.ana, mem := t.mem, status := t.status, nanSeq := s.nanSeq + 1 }

/-- R63 and R106: a beat of the A port that is not taken sets one event bit and is lost. -/
def Obligations.ABeatDropped : Prop :=
  ∀ (s : State) (w : Beat),
    (s.status.configured = false →
      exec (.aBeat w) s = .next { s with status := { s.status with aDrop := true } }) ∧
    (s.status.configured = true → s.ctrl.getLsbD 2 = true →
      exec (.aBeat w) s = .next { s with status := { s.status with unsup := true } }) ∧
    (s.status.configured = true → s.ctrl.getLsbD 2 = false → s.status.aOpen = false →
      exec (.aBeat w) s = .next { s with status := { s.status with aDrop := true } })

/-- R65: channel independence: what the cascade gives channel c depends on that channel's state and sample alone. -/
def Obligations.ChannelsAreIndependent : Prop :=
  ∀ (nan : NaNs) (k : Coeffs) (fs gs : List FilterState) (xs ys : List F64) (c : Nat) (f : FilterState) (x : F64),
    fs[c]? = some f → gs[c]? = some f → xs[c]? = some x → ys[c]? = some x →
    (filterFrame nan k 0 fs xs).1[c]? = (filterFrame nan k 0 gs ys).1[c]? ∧
      (filterFrame nan k 0 fs xs).2[c]? = (filterFrame nan k 0 gs ys).2[c]? ∧
      (∃ f' z, (filterFrame nan k 0 fs xs).1[c]? = some f' ∧ (filterFrame nan k 0 fs xs).2[c]? = some z) ∧
      ∀ c', xs.length ≤ c' → xs.length ≤ fs.length → (filterFrame nan k 0 fs xs).1[c']? = fs[c']?

/-- R76: the energy of a block of finite samples is at least +0, and never NaN. -/
def Obligations.BlockEnergyNonnegative : Prop :=
  ∀ (nan : F64) (n : Nat) (frames : List (List F64)), 0 < n → n < 2 ^ 53 →
    (∀ frame ∈ frames, ∀ x ∈ frame, fpIsFinite x = true) → fpLe f64Zero (blockEnergy nan n frames) = true

/-- R34 and R78: no step rewrites or reorders a retained entry: an entry goes only when A_NBLK returns to 0. -/
def Obligations.RetainedEntriesNeverRewritten : Prop :=
  ∀ s t : State, s.mem.wf = true → step s = .next t →
    t.ana.nblk = 0 ∨ (s.ana.nblk ≤ t.ana.nblk ∧ ∀ i, i < s.ana.nblk → blkRead t.mem i = blkRead s.mem i)

/-- R79: A_RESET opens a fresh session and changes nothing else; while unconfigured it only raises NOT_CONFIGURED. -/
def Obligations.AResetOpensSession : Prop :=
  ∀ s : State,
    (s.status.configured = true → exec .aReset s =
      .next { s with
        status := { s.status with aOpen := true, partDrop := s.status.partDrop || decide (s.ana.part ≠ []) }
        ana := ⟨List.replicate s.build.chMax ⟨0#64, 0#64, 0#64, 0#64⟩, [], [], 0, 0, 0⟩ }) ∧
    (s.status.configured = false → exec .aReset s = .next (raiseError .notConfigured s))

/-- R80 to R83: A_FINALIZE on an open session: the two gates, the loudness and the result registers, in the spec's
order of operations (`nan` is the pattern of a NaN result, which is free); it closes the session and changes nothing
else. The advance of nanSeq is the model's own (log 3). -/
def Obligations.AFinalizeReports : Prop :=
  ∀ s : State, s.status.configured = true → s.status.aOpen = true →
    ∃ (nan : F64) (es kept : List F64) (g l : F64) (valid : Bool), fpIsNaN nan = true ∧
      es = (List.range s.ana.nblk).map (blkRead s.mem) ∧
      kept = (if 2 ≤ s.ana.nblk then
        es.filter (fun e => fpLe (fpMul nan (fpDiv nan (es.foldl (fun acc x => fpAdd nan acc x) f64Zero)
          (fpOfNat s.ana.nblk)) s.con.relFactor) e) else []) ∧
      g = fpDiv nan (kept.foldl (fun acc x => fpAdd nan acc x) f64Zero) (fpOfNat kept.length) ∧
      l = fpSub nan (fpMul nan f64Ten (mathLog10 g)) s.con.lufsCal ∧
      (valid = true ↔ kept ≠ [] ∧ fpLt f64Zero g = true ∧ fpIsFinite g = true ∧ fpIsFinite l = true) ∧
      exec .aFinalize s =
        .next { s with
          status := { s.status with
            resValid := valid, aOpen := false, done := true
            partDrop := s.status.partDrop || decide (s.ana.part ≠ []) }
          res := ⟨if valid then l else f64NegInf, BitVec.ofNat 64 s.ana.nblk, BitVec.ofNat 64 kept.length,
            if valid then g else f64Zero⟩
          ana := { s.ana with part := [], rb := [] }
          nanSeq := s.nanSeq + 1 }

/-- R80: A_FINALIZE with no open session is rejected, so a second one after the first always is. -/
def Obligations.FinalizeNeedsOpenSession : Prop :=
  (∀ s : State, s.status.configured = true → s.status.aOpen = false →
    exec .aFinalize s = .next (raiseError .sessionClosed s)) ∧
  ∀ s : State, s.status.configured = true → s.status.aOpen = true →
    ∃ t, exec .aFinalize s = .next t ∧ exec .aFinalize t = .next (raiseError .sessionClosed t)

/-! ## The gain mapper -/

/-- R85: a measurement that is not finite, or a NaN reference, gives gain 1.0; and equal finite loudnesses give 1.0 when
the bounds admit 0 dB (R98). -/
def Obligations.GainIsUnityWithoutCorrection : Prop :=
  ∀ (nan : F64) (con : Consts) (m r : F64),
    (fpIsFinite m = false → gain nan con m r = f64One) ∧
    (fpIsNaN r = true → fpIsNaN nan = true → gain nan con m r = f64One) ∧
    (fpIsFinite m = true → fpLt f64Zero con.minGainDb = false → fpLt con.maxGainDb f64Zero = false →
      gain nan con m m = f64One)

/-- R85: otherwise the gain is pow(10, d / 20), where d is R - M clamped: MIN_GAIN_DB below it, MAX_GAIN_DB above it,
R - M itself between them; with inverted bounds d is MAX_GAIN_DB, and a NaN bound does not clamp. -/
def Obligations.GainIsClamped : Prop :=
  ∀ (nan : F64) (con : Consts) (m r : F64), fpIsFinite m = true → fpIsNaN r = false →
    ∃ d, gain nan con m r = mathPow f64Ten (fpDiv nan d f64Twenty) ∧
      (fpLe con.minGainDb con.maxGainDb = true →
        fpLe con.minGainDb d = true ∧ fpLe d con.maxGainDb = true ∧
          (fpLt (fpSub nan r m) con.minGainDb = true → d = con.minGainDb) ∧
          (fpLt con.maxGainDb (fpSub nan r m) = true → d = con.maxGainDb) ∧
          (fpLe con.minGainDb (fpSub nan r m) = true → fpLe (fpSub nan r m) con.maxGainDb = true →
            d = fpSub nan r m)) ∧
      (fpLt con.maxGainDb con.minGainDb = true → d = con.maxGainDb) ∧
      (fpIsNaN con.minGainDb = true →
        d = if fpLt con.maxGainDb (fpSub nan r m) then con.maxGainDb else fpSub nan r m) ∧
      (fpIsNaN con.maxGainDb = true →
        d = if fpLt (fpSub nan r m) con.minGainDb then con.minGainDb else fpSub nan r m)

/-- R86: for a fixed reference and bounds in order, a larger measurement never gives a larger exponent of 10, and the
exponent stays within the bounds over 20 (what MATH.pow makes of the exponent is MATH's own: R13). -/
def Obligations.GainExponentDecreases : Prop :=
  ∀ (nan : F64) (con : Consts) (m1 m2 r : F64), fpIsFinite m1 = true → fpIsFinite m2 = true → fpIsNaN r = false →
    fpLe con.minGainDb con.maxGainDb = true → fpLe m1 m2 = true →
    ∃ x1 x2, gain nan con m1 r = mathPow f64Ten x1 ∧ gain nan con m2 r = mathPow f64Ten x2 ∧ fpLe x2 x1 = true ∧
      fpLe (fpDiv nan con.minGainDb f64Twenty) x2 = true ∧ fpLe x1 (fpDiv nan con.maxGainDb f64Twenty) = true

/-- R48 and R87: D_SET_TARGET publishes the target gain, the ramp length and TGT_SET in one event, and changes nothing
else. The advance of nanSeq is the model's own (log 3). -/
def Obligations.SetTargetPublishes : Prop :=
  ∀ s : State, s.status.configured = true →
    ∃ nan, fpIsNaN nan = true ∧ exec .dSetTarget s =
      .next { s with
        dyn := { s.dyn with tgtGain := gain nan s.con s.tgt.meas s.tgt.ref, remain := s.cfg.rampFrames }
        status := { s.status with tgtSet := true }
        nanSeq := s.nanSeq + 1 }

/-! ## The dynamics engine -/

/-- R88: a P beat that does not complete a frame is decoded and held, and nothing else changes. The advance of nanSeq
is the model's own (log 3). -/
def Obligations.PBeatHoldsSample : Prop :=
  ∀ (s : State) (w : Beat) (fmt : SampleFormat), s.status.configured = true →
    sampleFormat (s.ctrl.extractLsb' 4 3) = some fmt → s.dyn.part.length + 1 ≠ s.cfg.ch.toNat →
    ∃ nan, fpIsNaN nan = true ∧ exec (.pBeat w) s =
      .next { s with
        dyn := { s.dyn with part := s.dyn.part ++ [dec nan fmt (s.ctrl.getLsbD 7) w] }
        nanSeq := s.nanSeq + 1 }

/-- R88 to R91 and R93: a P beat that completes a frame steps the ramp, takes the peak of the gained samples, steps
the limiter, emits one word a channel with the updated gain and envelope, counts the frame, and changes nothing else
(`n` holds the patterns of NaN results, which are free; OutputWithinFullScale says what CLAMP and the encoder give). The
advance of nanSeq is the model's own (log 3). -/
def Obligations.PBeatProcessesFrame : Prop :=
  ∀ (s : State) (w : Beat) (fmt : SampleFormat), s.status.configured = true →
    sampleFormat (s.ctrl.extractLsb' 4 3) = some fmt → s.dyn.part.length + 1 = s.cfg.ch.toNat →
    ∃ (n : Nat → F64) (x : List F64) (g peak tr e : F64), (∀ j, fpIsNaN (n j) = true) ∧
      x = s.dyn.part ++ [dec (n 0) fmt (s.ctrl.getLsbD 7) w] ∧
      g = (if s.dyn.remain.toNat ≤ 1 then s.dyn.tgtGain
        else fpAdd (n 3) s.dyn.curGain
          (fpDiv (n 2) (fpSub (n 1) s.dyn.tgtGain s.dyn.curGain) (fpOfNat s.dyn.remain.toNat))) ∧
      peak = x.foldl (fun p v => if fpLt p (fpAbs (fpMul (n 4) v g)) then fpAbs (fpMul (n 4) v g) else p) f64Zero ∧
      tr = (if fpLt s.con.limThr peak then fpDiv (n 5) s.con.limThr peak else f64One) ∧
      e = (if fpLt tr s.dyn.env then
          fpAdd (n 9) (fpMul (n 6) s.con.atkCoef s.dyn.env) (fpMul (n 8) (fpSub (n 7) f64One s.con.atkCoef) tr)
        else if fpLt s.dyn.env tr then
          fpAdd (n 9) (fpMul (n 6) s.con.relCoef s.dyn.env) (fpMul (n 8) (fpSub (n 7) f64One s.con.relCoef) tr)
        else s.dyn.env) ∧
      exec (.pBeat w) s =
        .next { s with
          dyn := { s.dyn with
            part := [], curGain := g, env := e, frames := s.dyn.frames + 1
            remain := BitVec.ofNat 64 (s.dyn.remain.toNat - 1) }
          pout := s.pout ++ x.map (fun v =>
            enc fmt (s.ctrl.getLsbD 7) (clampOut (fpMul (n 10) (fpMul (n 10) v g) e)))
          nanSeq := s.nanSeq + 1 }

/-- R88 and R106: a beat that reaches an unconfigured KWLD, or one whose P format is unsupported, is copied to POUT bit
for bit with its event bit, and nothing else changes. -/
def Obligations.PBeatPassesThrough : Prop :=
  ∀ (s : State) (w : Beat),
    (s.status.configured = false →
      exec (.pBeat w) s = .next { s with status := { s.status with pPass := true }, pout := s.pout ++ [w] }) ∧
    (s.status.configured = true → s.ctrl.getLsbD 6 = true →
      exec (.pBeat w) s = .next { s with status := { s.status with unsup := true }, pout := s.pout ++ [w] })

/-- R90: after max(1, D_REMAIN) processed frames, whatever they hold, D_CUR_GAIN equals D_TGT_GAIN bit for bit and the
ramp is over. -/
def Obligations.RampReachesTarget : Prop :=
  ∀ (frames : List (NaNs × Consts × List F64)) (d : Dynamics), max 1 d.remain.toNat ≤ frames.length →
    (frames.foldl (fun d f => processDyn f.1 f.2.1 f.2.2 d) d).curGain = d.tgtGain ∧
      (frames.foldl (fun d f => processDyn f.1 f.2.1 f.2.2 d) d).tgtGain = d.tgtGain ∧
      (frames.foldl (fun d f => processDyn f.1 f.2.1 f.2.2 d) d).remain = 0#64

/-- R91: while no peak exceeds LIM_THR an envelope of 1.0 stays 1.0 bit for bit, and a target reduction equal to the
envelope keeps it. -/
def Obligations.LimiterKeepsSettledEnvelope : Prop :=
  (∀ (nan : NaNs) (con : Consts) (peak : F64), fpLt con.limThr peak = false →
    limiterStep nan con peak f64One = f64One) ∧
  ∀ (nan : NaNs) (con : Consts) (peak env : F64), fpLt con.limThr peak = true →
    fpEq (fpDiv (nan [4]) con.limThr peak) env = true → limiterStep nan con peak env = env

/-- R91: with coefficients in [0, 1] and a threshold of at least 0, an envelope in [0, 1] stays in [0, 1]: through every
limiter step, and so through every step of the machine. -/
def Obligations.EnvelopeStaysInUnitRange : Prop :=
  (∀ (nan : NaNs) (con : Consts) (peak env : F64),
    fpLe f64Zero con.limThr = true → fpLe f64Zero con.atkCoef = true → fpLe con.atkCoef f64One = true →
    fpLe f64Zero con.relCoef = true → fpLe con.relCoef f64One = true →
    fpLe f64Zero env = true → fpLe env f64One = true →
    fpLe f64Zero (limiterStep nan con peak env) = true ∧ fpLe (limiterStep nan con peak env) f64One = true) ∧
  ∀ s t : State,
    fpLe f64Zero s.con.limThr = true → fpLe f64Zero s.con.atkCoef = true → fpLe s.con.atkCoef f64One = true →
    fpLe f64Zero s.con.relCoef = true → fpLe s.con.relCoef f64One = true →
    fpLe f64Zero s.dyn.env = true → fpLe s.dyn.env f64One = true →
    step s = .next t → fpLe f64Zero t.dyn.env = true ∧ fpLe t.dyn.env f64One = true

/-- R94 and R95: D_FLUSH and D_RESET restore the identity gain and envelope, keep the target, restart the ramp if a target
is set, drop the partial frame, and change nothing else; while unconfigured they only raise NOT_CONFIGURED. -/
def Obligations.FlushAndResetRestore : Prop :=
  ∀ s : State, ∀ i ∈ [Instr.dFlush, .dReset],
    (s.status.configured = true → exec i s =
      .next { s with
        status := { s.status with partDrop := s.status.partDrop || decide (s.dyn.part ≠ []) }
        dyn := { s.dyn with
          part := [], curGain := f64One, env := f64One
          remain := if s.status.tgtSet = true then s.cfg.rampFrames else 0#64 } }) ∧
    (s.status.configured = false → exec i s = .next (raiseError .notConfigured s))

/-- R96: ACTIVE is 0 right after CONFIGURE, and 1 while a ramp towards a set target is to come. -/
def Obligations.ActiveFollowsTheTarget : Prop :=
  (∀ (fs : BitVec 20) (chm1 : BitVec 4) (s : State), configError s.build fs.toNat (chm1.toNat + 1) = none →
    ∃ t, exec (.configure fs chm1) s = .next t ∧ (statusWord t).getLsbD 4 = false) ∧
  ∀ s : State, s.status.configured = true → s.cfg.rampFrames ≠ 0#64 →
    (∃ t, exec .dSetTarget s = .next t ∧ (statusWord t).getLsbD 4 = true) ∧
      (s.status.tgtSet = true → ∃ t, exec .dFlush s = .next t ∧ (statusWord t).getLsbD 4 = true)

/-- R93, R97 and R60: every processed output word decodes to a value in [-1.0, +1.0], whatever the input, the gain or
the envelope; CLAMP's values; and how the encoder quantises a value in [-1.0, +1.0]: an integer format gives the nearest
code, the even one of two, saturated at 2^(N-1) - 1, with zero unused bytes, and F32 gives the nearest binary32, the even
one of two, under the value's sign (fpVal counts units of 2^-1074; bit 24 of a big-endian beat is the lowest of u). -/
def Obligations.OutputWithinFullScale : Prop :=
  (∀ (s : State) (w : Beat) (fmt : SampleFormat), s.status.configured = true →
    sampleFormat (s.ctrl.extractLsb' 4 3) = some fmt →
    ∃ t new, exec (.pBeat w) s = .next t ∧ t.pout = s.pout ++ new ∧
      (s.dyn.part.length + 1 = s.cfg.ch.toNat → new.length = s.cfg.ch.toNat) ∧
      ∀ o ∈ new, ∀ nan, fpLe f64NegOne (dec nan fmt (s.ctrl.getLsbD 7) o) = true ∧
        fpLe (dec nan fmt (s.ctrl.getLsbD 7) o) f64One = true) ∧
  (∀ v : F64,
    (fpIsNaN v = true → clampOut v = 0x0000000000000000#64) ∧
    (fpLt f64One v = true → clampOut v = 0x3FF0000000000000#64) ∧
    (fpLt v f64NegOne = true → clampOut v = 0xBFF0000000000000#64) ∧
    (fpLe f64NegOne v = true → fpLe v f64One = true → clampOut v = v)) ∧
  ∀ (v : F64) (be : Bool), fpLe f64NegOne v = true → fpLe v f64One = true →
    (∀ row ∈ [(SampleFormat.s16, 16, fun o : Beat => (o.extractLsb' 0 16).toInt,
          fun o : Beat => (o.extractLsb' 0 8 ++ o.extractLsb' 8 8).toInt),
        (.s24, 24, fun o => (o.extractLsb' 0 24).toInt,
          fun o => (o.extractLsb' 0 8 ++ o.extractLsb' 8 8 ++ o.extractLsb' 16 8).toInt),
        (.s32, 32, fun o => o.toInt,
          fun o => (o.extractLsb' 0 8 ++ o.extractLsb' 8 8 ++ o.extractLsb' 16 8 ++ o.extractLsb' 24 8).toInt)],
      ∃ q : Int, 2 * (q * 2 ^ 1074 - fpVal v * 2 ^ (row.2.1 - 1)).natAbs ≤ 2 ^ 1074 ∧
        (2 * (q * 2 ^ 1074 - fpVal v * 2 ^ (row.2.1 - 1)).natAbs = 2 ^ 1074 → q % 2 = 0) ∧
        (enc row.1 be v).toNat < 2 ^ row.2.1 ∧
        (if be then row.2.2.2 (enc row.1 be v) else row.2.2.1 (enc row.1 be v)) = min q (2 ^ (row.2.1 - 1) - 1)) ∧
    ∀ nan d : F64, fpIsNaN nan = true → d = dec nan .f32 be (enc .f32 be v) →
      fpIsFinite d = true ∧ fpSign d = fpSign v ∧
        ∀ o : Beat, fpIsFinite (dec nan .f32 be o) = true →
          (fpVal d - fpVal v).natAbs ≤ (fpVal (dec nan .f32 be o) - fpVal v).natAbs ∧
            ((fpVal d - fpVal v).natAbs = (fpVal (dec nan .f32 be o) - fpVal v).natAbs →
              fpVal (dec nan .f32 be o) ≠ fpVal d → (enc .f32 be v).getLsbD (if be then 24 else 0) = false)

/-- R56 to R58: the format codes, and that every sample decodes exactly. An integer sample times 2^(N-1) is the two's
complement code of its N = 8n bits; a binary32 keeps its sign, its value and its infinities, and a NaN stays a NaN. The
sample's bits are the beat's low n bytes, reversed in big-endian order (fpVal and fpMag count units of 2^-1074, and a
unit of 2^-149 is 2^925 of them). -/
def Obligations.IntegerDecodeIsExact : Prop :=
  (sampleFormat 0#3 = some .s16 ∧ sampleFormat 1#3 = some .s24 ∧ sampleFormat 2#3 = some .s32 ∧
    sampleFormat 3#3 = some .f32 ∧ ∀ code : BitVec 3, 4 ≤ code.toNat → sampleFormat code = none) ∧
  (∀ (nan : F64) (w : Beat) (be : Bool), ∀ row ∈ [(SampleFormat.s16, 16, (w.extractLsb' 0 16).toInt,
        (w.extractLsb' 0 8 ++ w.extractLsb' 8 8).toInt),
      (.s24, 24, (w.extractLsb' 0 24).toInt, (w.extractLsb' 0 8 ++ w.extractLsb' 8 8 ++ w.extractLsb' 16 8).toInt),
      (.s32, 32, w.toInt,
        (w.extractLsb' 0 8 ++ w.extractLsb' 8 8 ++ w.extractLsb' 16 8 ++ w.extractLsb' 24 8).toInt)],
    fpIsFinite (dec nan row.1 be w) = true ∧
      fpVal (dec nan row.1 be w) * 2 ^ (row.2.1 - 1) = (if be then row.2.2.2 else row.2.2.1) * 2 ^ 1074) ∧
  ∀ (nan : F64) (w u : Beat) (be : Bool), fpIsNaN nan = true →
    u = (if be then w.extractLsb' 0 8 ++ w.extractLsb' 8 8 ++ w.extractLsb' 16 8 ++ w.extractLsb' 24 8 else w) →
    (u.extractLsb' 23 8 = 0x00#8 → fpIsFinite (dec nan .f32 be w) = true ∧
      fpSign (dec nan .f32 be w) = u.getLsbD 31 ∧
      fpMag (dec nan .f32 be w) = (u.extractLsb' 0 23).toNat * 2 ^ 925) ∧
    (u.extractLsb' 23 8 ≠ 0x00#8 → u.extractLsb' 23 8 ≠ 0xFF#8 → fpIsFinite (dec nan .f32 be w) = true ∧
      fpSign (dec nan .f32 be w) = u.getLsbD 31 ∧
      fpMag (dec nan .f32 be w) =
        (2 ^ 23 + (u.extractLsb' 0 23).toNat) * 2 ^ ((u.extractLsb' 23 8).toNat - 1) * 2 ^ 925) ∧
    (u.extractLsb' 23 8 = 0xFF#8 → u.extractLsb' 0 23 = 0#23 →
      dec nan .f32 be w = if u.getLsbD 31 then 0xFFF0000000000000#64 else 0x7FF0000000000000#64) ∧
    (u.extractLsb' 23 8 = 0xFF#8 → u.extractLsb' 0 23 ≠ 0#23 → fpIsNaN (dec nan .f32 be w) = true)

/-- R58 and R60: encoding after decoding is the identity on words whose unused bytes are zero and whose value lies in
[-1, 1], in every format and byte order (`nan` is the pattern that a signalling NaN decodes to: log 3). -/
def Obligations.SampleRoundTrip : Prop :=
  ∀ (nan : F64) (fmt : SampleFormat) (be : Bool) (w : Beat), fpIsNaN nan = true → w.toNat < 256 ^ fmt.bytes →
    fpLe f64NegOne (dec nan fmt be w) = true → fpLe (dec nan fmt be w) f64One = true →
    enc fmt be (dec nan fmt be w) = w

/-- R98: at unity gain and envelope, a frame whose samples are in range and not above LIM_THR comes out bit for bit as it
went in, and gain and envelope stay 1.0. -/
def Obligations.PlaybackRoundTrip : Prop :=
  ∀ (s : State) (fmt : SampleFormat) (nan : F64) (ws : List Beat) (w : Beat), s.status.configured = true →
    sampleFormat (s.ctrl.extractLsb' 4 3) = some fmt →
    s.dyn.part = ws.map (dec nan fmt (s.ctrl.getLsbD 7)) → ws.length + 1 = s.cfg.ch.toNat →
    s.dyn.curGain = f64One → s.dyn.tgtGain = f64One → s.dyn.env = f64One →
    (∀ o ∈ ws ++ [w], o.toNat < 256 ^ fmt.bytes ∧
      ∀ n, fpLe (fpAbs (dec n fmt (s.ctrl.getLsbD 7) o)) f64One = true ∧
        fpLt s.con.limThr (fpAbs (dec n fmt (s.ctrl.getLsbD 7) o)) = false) →
    ∃ t, exec (.pBeat w) s = .next t ∧ t.pout = s.pout ++ ws ++ [w] ∧
      t.dyn.curGain = f64One ∧ t.dyn.tgtGain = f64One ∧ t.dyn.env = f64One

/-! ## The whole machine -/

/-- R117: the analysis operations leave the dynamics engine alone, and the dynamics operations the analysis engine. -/
def Obligations.EnginesAreIndependent : Prop :=
  (∀ (s : State) (w : Beat), ∀ i ∈ [Instr.aBeat w, .aReset, .aFinalize], ∃ t, exec i s = .next t ∧
    t.dyn = s.dyn ∧ t.pout = s.pout ∧ t.status.tgtSet = s.status.tgtSet ∧ t.cfg = s.cfg ∧ t.coef = s.coef ∧
    t.con = s.con ∧ t.tgt = s.tgt ∧ t.ctrl = s.ctrl ∧ t.irqEn = s.irqEn) ∧
  ∀ (s : State) (w : Beat), ∀ i ∈ [Instr.pBeat w, .dSetTarget, .dFlush, .dReset], ∃ t, exec i s = .next t ∧
    t.ana = s.ana ∧ t.mem = s.mem ∧ t.res = s.res ∧ t.status.aOpen = s.status.aOpen ∧
    t.status.resValid = s.status.resValid ∧ t.cfg = s.cfg ∧ t.coef = s.coef ∧ t.con = s.con ∧ t.tgt = s.tgt ∧
    t.ctrl = s.ctrl ∧ t.irqEn = s.irqEn

/-- R48 and R117: only D_SET_TARGET and CONFIGURE write the target gain, the one value the engines share. -/
def Obligations.OnlyTargetCommandsWriteTarget : Prop :=
  ∀ (i : Instr) (s t : State), i.wf = true → exec i s = .next t → t.dyn.tgtGain ≠ s.dyn.tgtGain →
    i = .dSetTarget ∨ ∃ fs chm1, i = .configure fs chm1

/-- The invariant holds after hardware reset, in every legal build and in the default one. -/
def Obligations.ResetSatisfiesInvariant : Prop :=
  (∀ p : Config.Params, p.Legal → Inv (State.resetOf p)) ∧ Inv State.reset

/-- R6, R21, R22, R25, R26, R27, R31, R33, R35, R75, R84 and R90: every step keeps the invariant: the reserved bits, the
canonical block memory inside its window, the size relations, the shape of the partial frames and of RB, the session
geometry, the agreement of RES_VALID with RES_LUFS, and the identity gain before a target. -/
def Obligations.StepKeepsInvariant : Prop := ∀ s t : State, Inv s → step s = .next t → Inv t

/-! ## Arithmetic -/

/-- R10: rounding gives a nearest representable magnitude, and the even one of two. -/
def Obligations.RoundingIsNearestEven : Prop :=
  ∀ n d m : Nat, 0 < d → m < infMag → roundMag 53 infMag n d < infMag →
    ((fpMag (fpPack false (roundMag 53 infMag n d)) * d : Int) - n).natAbs ≤
        ((fpMag (fpPack false m) * d : Int) - n).natAbs ∧
      (((fpMag (fpPack false (roundMag 53 infMag n d)) * d : Int) - n).natAbs =
          ((fpMag (fpPack false m) * d : Int) - n).natAbs →
        m ≠ roundMag 53 infMag n d → roundMag 53 infMag n d % 2 = 0)

/-- R10: a finite sum, product or quotient of finite values is at least as near the exact result as any other finite
value (products and quotients compared in units of 2^-1074). -/
def Obligations.ArithmeticIsNearest : Prop :=
  ∀ nan a b c : F64, fpIsFinite a = true → fpIsFinite b = true → fpIsFinite c = true →
    (fpIsFinite (fpAdd nan a b) = true →
      (fpVal (fpAdd nan a b) - (fpVal a + fpVal b)).natAbs ≤ (fpVal c - (fpVal a + fpVal b)).natAbs) ∧
    (fpIsFinite (fpMul nan a b) = true →
      (fpVal (fpMul nan a b) * 2 ^ 1074 - fpVal a * fpVal b).natAbs ≤
        (fpVal c * 2 ^ 1074 - fpVal a * fpVal b).natAbs) ∧
    (fpMagBits b ≠ 0 → fpIsFinite (fpDiv nan a b) = true →
      (fpVal (fpDiv nan a b) * fpVal b - fpVal a * 2 ^ 1074).natAbs ≤
        (fpVal c * fpVal b - fpVal a * 2 ^ 1074).natAbs)

/-- R13 as the model reads it: pow(10, 0) = 1, pow(10, 1) = 10, log10(10^k) = k for exact powers, exp(-inf) = +0, and NaN
on a NaN operand. That the exact powers are k = 0 to 22, and that the law of pow(10, 0.0) is for the exponent +0.0 only,
is the model's reading (log 4). -/
def Obligations.MathLaws : Prop :=
  mathPow f64Ten f64Zero = f64One ∧ mathPow f64Ten f64One = f64Ten ∧
    (∀ k, k ≤ 22 → mathLog10 (fpOfNat (10 ^ k)) = fpOfNat k) ∧ mathExp f64NegInf = f64Zero ∧
    ∀ x y : F64, fpIsNaN x = true →
      fpIsNaN (mathExp x) = true ∧ fpIsNaN (mathSin x) = true ∧ fpIsNaN (mathCos x) = true ∧
        fpIsNaN (mathLog10 x) = true ∧ fpIsNaN (mathPow x y) = true ∧ fpIsNaN (mathPow y x) = true
end

