-- ==== Sys2Proof/Laws/Float.lean ====
section
/-! SUPPORT. Small facts about binary64 patterns: the fields of a packed pattern, and the classes as ranges of the
magnitude bits. -/

namespace Sys2Proof.Machine

theorem fpMagBits_lt (a : F64) : fpMagBits a < 2 ^ 63 := Nat.mod_lt _ (by decide)

/-- The exponent field is the top of the magnitude bits. -/
theorem fpExp_eq (a : F64) : fpExp a = fpMagBits a / 2 ^ 52 := by
  have := a.isLt
  unfold fpExp fpMagBits
  omega

/-- The fraction field is the bottom of the magnitude bits. -/
theorem fpFrac_eq (a : F64) : fpFrac a = fpMagBits a % 2 ^ 52 := by
  unfold fpFrac fpMagBits
  omega

/-- A NaN is a pattern above infinity. -/
theorem fpIsNaN_iff (a : F64) : fpIsNaN a = true ↔ infMag < fpMagBits a := by
  have := fpMagBits_lt a
  simp only [fpIsNaN, fpExp_eq, fpFrac_eq, infMag, Bool.and_eq_true, beq_iff_eq, bne_iff_ne]
  omega

/-- An infinity is the pattern of infinity. -/
theorem fpIsInf_iff (a : F64) : fpIsInf a = true ↔ fpMagBits a = infMag := by
  have := fpMagBits_lt a
  simp only [fpIsInf, fpExp_eq, fpFrac_eq, infMag, Bool.and_eq_true, beq_iff_eq]
  omega

/-- A finite value is a pattern below infinity. -/
theorem fpIsFinite_iff (a : F64) : fpIsFinite a = true ↔ fpMagBits a < infMag := by
  have := fpMagBits_lt a
  simp only [fpIsFinite, fpExp_eq, infMag, bne_iff_ne]
  omega

/-- A value is NaN, infinite or finite, and only one of them. -/
theorem fpIsFinite_eq (a : F64) : fpIsFinite a = (!fpIsNaN a && !fpIsInf a) := by
  have h1 := fpIsNaN_iff a
  have h2 := fpIsInf_iff a
  have h3 := fpIsFinite_iff a
  cases hn : fpIsNaN a <;> cases hi : fpIsInf a <;> cases hf : fpIsFinite a <;> simp_all <;> omega

theorem fpPack_toNat (neg : Bool) (m : Nat) :
    (fpPack neg m).toNat = neg.toNat * 2 ^ 63 + m % 2 ^ 63 := by
  unfold fpPack
  rw [BitVec.toNat_append, BitVec.toNat_ofNat, BitVec.toNat_ofBool,
    ← Nat.shiftLeft_add_eq_or_of_lt (Nat.mod_lt _ (by decide)), Nat.shiftLeft_eq]

/-- The magnitude bits of a packed pattern. -/
theorem fpMagBits_pack (neg : Bool) {m : Nat} (h : m < 2 ^ 63) : fpMagBits (fpPack neg m) = m := by
  unfold fpMagBits
  rw [fpPack_toNat]
  omega

/-- The sign of a packed pattern. -/
@[simp] theorem fpSign_pack (neg : Bool) (m : Nat) : fpSign (fpPack neg m) = neg := by
  unfold fpSign fpPack
  rw [BitVec.getLsbD_append]
  cases neg <;> simp

/-- A pattern is its sign and its magnitude bits. -/
theorem fpPack_sign_magBits (a : F64) : fpPack (fpSign a) (fpMagBits a) = a := by
  apply BitVec.eq_of_toNat_eq
  have h : fpSign a = decide (2 ^ 63 ≤ a.toNat) := by
    have := a.isLt
    simp only [fpSign, BitVec.getLsbD, Nat.testBit_eq_decide_div_mod_eq]
    congr 1
    rw [eq_iff_iff]
    omega
  have := a.isLt
  rw [fpPack_toNat, h]
  unfold fpMagBits
  by_cases hh : 2 ^ 63 ≤ a.toNat
  · rw [decide_eq_true hh, Bool.toNat_true]; omega
  · rw [decide_eq_false hh, Bool.toNat_false]; omega

/-- A free NaN pattern is a NaN. -/
@[simp] theorem fpIsNaN_quietNaN (f : BitVec 52) : fpIsNaN (quietNaN f) = true := by
  have h : (quietNaN f).toNat = (f.extractLsb' 51 1).toNat * 2 ^ 63 + 0xFFF * 2 ^ 51 + (f.extractLsb' 0 51).toNat := by
    unfold quietNaN
    rw [BitVec.toNat_append, BitVec.toNat_append, ← Nat.shiftLeft_add_eq_or_of_lt (BitVec.isLt _),
      ← Nat.shiftLeft_add_eq_or_of_lt (BitVec.isLt _), Nat.shiftLeft_eq, Nat.shiftLeft_eq]
    simp only [BitVec.toNat_ofNat]
    omega
  have h1 := (f.extractLsb' 0 51).isLt
  rw [fpIsNaN_iff]
  unfold fpMagBits infMag
  rw [h]
  omega

/-- Rounding never passes infinity. -/
theorem roundMag_le_inf (p inf n d : Nat) : roundMag p inf n d ≤ inf := min_le_right _ _

/-- A ratio that is a natural rounds to it. -/
theorem rne_mul_right {d : Nat} (hd : 0 < d) (q : Nat) : rne (q * d) d = q := by
  unfold rne
  rw [Nat.mul_mod_left, Nat.mul_div_cancel _ hd, if_neg (by omega)]

/-- Rounding to the nearest natural stays within half of one. -/
theorem rne_error {n d : Nat} (hd : 0 < d) : 2 * n ≤ (2 * rne n d + 1) * d ∧ 2 * rne n d * d ≤ 2 * n + d := by
  have h := Nat.div_add_mod n d
  have hr := Nat.mod_lt n hd
  unfold rne
  generalize n / d = q at *
  generalize n % d = r at *
  subst h
  split
  · constructor <;> ring_nf <;> omega
  · constructor <;> ring_nf <;> omega

end Sys2Proof.Machine
end

