-- ==== Sys2Proof/Laws/Memory.lean ====
section
/-! SUPPORT. Block memory: every operation keeps the canonical form, and what a byte or an entry reads after a write. -/

namespace Sys2Proof.Machine

theorem Memory.wfFrom_mono {lo lo' : Nat} (h : lo' ≤ lo) {m : Memory} (hw : Memory.wfFrom lo m = true) :
    Memory.wfFrom lo' m = true := by
  cases m with
  | nil => rfl
  | cons c m =>
    obtain ⟨k, v⟩ := c
    simp only [Memory.wfFrom, Bool.and_eq_true, decide_eq_true_eq] at hw ⊢
    exact ⟨⟨le_trans h hw.1.1, hw.1.2⟩, hw.2⟩

theorem Memory.wfFrom_cons_write {lo a : Nat} (v : Byte) {m : Memory} (ha : lo ≤ a)
    (hw : Memory.wfFrom (a + 1) m = true) : Memory.wfFrom lo (Memory.cons a v m) = true := by
  unfold Memory.cons
  split
  · exact Memory.wfFrom_mono (by omega) hw
  · simp_all [Memory.wfFrom]

theorem Memory.wfFrom_setByte {m : Memory} {lo a : Nat} (v : Byte) (ha : lo ≤ a)
    (hw : Memory.wfFrom lo m = true) : Memory.wfFrom lo (Memory.setByte m a v) = true := by
  induction m generalizing lo with
  | nil => exact Memory.wfFrom_cons_write v ha rfl
  | cons c m ih =>
    obtain ⟨k, u⟩ := c
    simp only [Memory.wfFrom, Bool.and_eq_true, decide_eq_true_eq] at hw
    obtain ⟨⟨hk, hu⟩, hm⟩ := hw
    simp only [Memory.setByte]
    split
    · exact Memory.wfFrom_cons_write v ha (by simp_all [Memory.wfFrom])
    · split
      · subst_vars; exact Memory.wfFrom_cons_write v ha hm
      · simp only [Memory.wfFrom, Bool.and_eq_true, decide_eq_true_eq]
        exact ⟨⟨hk, hu⟩, ih (by omega) hm⟩

/-- Writing one byte keeps the canonical form. -/
theorem Memory.wf_setByte {m : Memory} (a : Nat) (v : Byte) (h : m.wf = true) : (m.setByte a v).wf = true :=
  Memory.wfFrom_setByte v (Nat.zero_le a) h

/-- Writing bytes keeps the canonical form. -/
theorem Memory.wf_setBytes (bs : List Byte) : ∀ {m : Memory} (a : Nat), m.wf = true → (m.setBytes a bs).wf = true := by
  induction bs with
  | nil => exact fun _ h => h
  | cons b bs ih => exact fun a h => ih (a + 1) (Memory.wf_setByte a b h)

/-- Storing a block energy keeps the canonical form. -/
theorem wf_blkWrite {m : Memory} (i : Nat) (e : F64) (h : m.wf = true) : (blkWrite m i e).wf = true :=
  Memory.wf_setBytes _ _ h

/-- The memory of a machine right after reset is in canonical form. -/
theorem wf_resetOf (p : Config.Params) : (State.resetOf p).mem.wf = true := rfl

theorem Memory.byte_below {m : Memory} {lo a : Nat} (h : a < lo) (hw : Memory.wfFrom lo m = true) :
    m.byte a = unlistedByte := by
  induction m generalizing lo with
  | nil => rfl
  | cons c m ih =>
    obtain ⟨k, v⟩ := c
    simp only [Memory.wfFrom, Bool.and_eq_true, decide_eq_true_eq] at hw
    simp only [Memory.byte]
    rw [if_neg (by omega)]
    exact ih (by omega) hw.2

theorem Memory.byte_cons {m : Memory} {a : Nat} (v : Byte) (hw : Memory.wfFrom (a + 1) m = true) (x : Nat) :
    (Memory.cons a v m).byte x = if x = a then v else m.byte x := by
  unfold Memory.cons
  split
  · split
    · subst_vars; exact Memory.byte_below (Nat.lt_succ_self _) hw
    · rfl
  · simp only [Memory.byte]

theorem Memory.byte_setByte_from {m : Memory} {lo a : Nat} (v : Byte) (hw : Memory.wfFrom lo m = true) (x : Nat) :
    (m.setByte a v).byte x = if x = a then v else m.byte x := by
  induction m generalizing lo with
  | nil => exact Memory.byte_cons v rfl x
  | cons c m ih =>
    obtain ⟨k, u⟩ := c
    have hw' := hw
    simp only [Memory.wfFrom, Bool.and_eq_true, decide_eq_true_eq] at hw
    simp only [Memory.setByte]
    split
    · exact Memory.byte_cons v (by simp_all [Memory.wfFrom]) x
    · split
      · subst_vars
        rw [Memory.byte_cons v hw.2]
        simp only [Memory.byte]
        split <;> simp_all
      · simp only [Memory.byte, ih hw.2]
        by_cases h : x = k
        · subst h; simp; omega
        · simp [h]

/-- A byte read after a one-byte write: the value written at its address, the old byte everywhere else. -/
theorem Memory.byte_setByte {m : Memory} (h : m.wf = true) (a : Nat) (v : Byte) (x : Nat) :
    (m.setByte a v).byte x = if x = a then v else m.byte x :=
  Memory.byte_setByte_from v h x

/-- A byte outside the written range reads as before. -/
theorem Memory.byte_setBytes_outside (bs : List Byte) :
    ∀ {m : Memory} (a x : Nat), m.wf = true → (x < a ∨ a + bs.length ≤ x) →
      (m.setBytes a bs).byte x = m.byte x := by
  induction bs with
  | nil => exact fun _ _ _ _ => rfl
  | cons b bs ih =>
    intro m a x h hx
    simp only [List.length_cons] at hx
    rw [Memory.setBytes, ih (a + 1) x (Memory.wf_setByte a b h) (by omega), Memory.byte_setByte h, if_neg (by omega)]

theorem leBytes_length (n v : Nat) : (leBytes n v).length = n := by
  induction n generalizing v with
  | zero => rfl
  | succ n ih => simp [leBytes, ih]

/-- The bytes of a natural below 256^n give it back. -/
theorem leNat_leBytes (n v : Nat) : leNat (leBytes n v) = v % 256 ^ n := by
  induction n generalizing v with
  | zero => simp [leBytes, leNat, Nat.mod_one]
  | succ n ih =>
    simp only [leBytes, leNat, ih, BitVec.toNat_ofNat]
    rw [show 256 ^ (n + 1) = 256 * 256 ^ n from pow_succ' 256 n, Nat.mod_mul]

theorem leNat_lt (bs : List Byte) : leNat bs < 256 ^ bs.length := by
  induction bs with
  | nil => simp [leNat]
  | cons b bs ih =>
    simp only [leNat, List.length_cons, pow_succ]
    have := b.isLt
    omega

/-- The bytes that a natural of n bytes splits into are the bytes it came from. -/
theorem leBytes_leNat (bs : List Byte) : leBytes bs.length (leNat bs) = bs := by
  induction bs with
  | nil => rfl
  | cons b bs ih =>
    simp only [leNat, List.length_cons, leBytes]
    have h1 : (b.toNat + 256 * leNat bs) / 256 = leNat bs := by have := b.isLt; omega
    rw [h1, ih]
    congr 1
    apply BitVec.eq_of_toNat_eq
    have := b.isLt
    simp only [BitVec.toNat_ofNat]
    omega

theorem Memory.bytes_setBytes (bs : List Byte) :
    ∀ {m : Memory} (a : Nat), m.wf = true → (m.setBytes a bs).bytes a bs.length = bs := by
  induction bs with
  | nil => exact fun _ _ => rfl
  | cons b bs ih =>
    intro m a h
    simp only [List.length_cons, Memory.bytes, Memory.setBytes]
    rw [ih (a + 1) (Memory.wf_setByte a b h),
      Memory.byte_setBytes_outside bs (a + 1) a (Memory.wf_setByte a b h) (by omega), Memory.byte_setByte h, if_pos rfl]

/-- An entry reads as the energy last stored in it. -/
theorem blkRead_blkWrite_same {m : Memory} (h : m.wf = true) (i : Nat) (e : F64) :
    blkRead (blkWrite m i e) i = e := by
  have := Memory.bytes_setBytes (leBytes 8 e.toNat) (blkAddr i) h
  rw [leBytes_length] at this
  unfold blkRead blkWrite
  rw [this, leNat_leBytes]
  apply BitVec.eq_of_toNat_eq
  have := e.isLt
  simp only [BitVec.toNat_ofNat]
  omega

theorem Memory.bytes_congr {m m' : Memory} (n : Nat) :
    ∀ a, (∀ x, a ≤ x → x < a + n → m.byte x = m'.byte x) → m.bytes a n = m'.bytes a n := by
  induction n with
  | zero => exact fun _ _ => rfl
  | succ n ih =>
    intro a h
    simp only [Memory.bytes]
    rw [h a (by omega) (by omega), ih (a + 1) fun x h1 h2 => h x (by omega) (by omega)]

/-- The other entries read as before a store. -/
theorem blkRead_blkWrite_other {m : Memory} (h : m.wf = true) {i j : Nat} (hij : j ≠ i) (e : F64) :
    blkRead (blkWrite m i e) j = blkRead m j := by
  unfold blkRead
  rw [Memory.bytes_congr]
  intro x h1 h2
  apply Memory.byte_setBytes_outside _ _ _ h
  rw [leBytes_length]
  unfold blkAddr at *
  omega

end Sys2Proof.Machine
end

