-- ==== Sys2Proof/Laws/State.lean ====
section
/-! SUPPORT. One lemma per field for each primitive update of the state, so that no proof unfolds a record update. -/

namespace Sys2Proof.Machine

@[simp] theorem State.raise_status (s : State) (b : Sticky) : (s.raise b).status = s.status.raise b := rfl
@[simp] theorem State.raise_ctrl (s : State) (b : Sticky) : (s.raise b).ctrl = s.ctrl := rfl
@[simp] theorem State.raise_irqEn (s : State) (b : Sticky) : (s.raise b).irqEn = s.irqEn := rfl
@[simp] theorem State.raise_cfg (s : State) (b : Sticky) : (s.raise b).cfg = s.cfg := rfl
@[simp] theorem State.raise_coef (s : State) (b : Sticky) : (s.raise b).coef = s.coef := rfl
@[simp] theorem State.raise_con (s : State) (b : Sticky) : (s.raise b).con = s.con := rfl
@[simp] theorem State.raise_tgt (s : State) (b : Sticky) : (s.raise b).tgt = s.tgt := rfl
@[simp] theorem State.raise_res (s : State) (b : Sticky) : (s.raise b).res = s.res := rfl
@[simp] theorem State.raise_ana (s : State) (b : Sticky) : (s.raise b).ana = s.ana := rfl
@[simp] theorem State.raise_mem (s : State) (b : Sticky) : (s.raise b).mem = s.mem := rfl
@[simp] theorem State.raise_dyn (s : State) (b : Sticky) : (s.raise b).dyn = s.dyn := rfl
@[simp] theorem State.raise_pout (s : State) (b : Sticky) : (s.raise b).pout = s.pout := rfl
@[simp] theorem State.raise_build (s : State) (b : Sticky) : (s.raise b).build = s.build := rfl
@[simp] theorem State.raise_events (s : State) (b : Sticky) : (s.raise b).events = s.events := rfl
@[simp] theorem State.raise_busResp (s : State) (b : Sticky) : (s.raise b).busResp = s.busResp := rfl
@[simp] theorem State.raise_taken (s : State) (b : Sticky) : (s.raise b).taken = s.taken := rfl
@[simp] theorem State.raise_nanSeq (s : State) (b : Sticky) : (s.raise b).nanSeq = s.nanSeq := rfl

@[simp] theorem raiseError_status (e : Err) (s : State) : (raiseError e s).status = { s.status.raise e.cls.sticky with errCode := e.code } := rfl
@[simp] theorem raiseError_ctrl (e : Err) (s : State) : (raiseError e s).ctrl = s.ctrl := rfl
@[simp] theorem raiseError_irqEn (e : Err) (s : State) : (raiseError e s).irqEn = s.irqEn := rfl
@[simp] theorem raiseError_cfg (e : Err) (s : State) : (raiseError e s).cfg = s.cfg := rfl
@[simp] theorem raiseError_coef (e : Err) (s : State) : (raiseError e s).coef = s.coef := rfl
@[simp] theorem raiseError_con (e : Err) (s : State) : (raiseError e s).con = s.con := rfl
@[simp] theorem raiseError_tgt (e : Err) (s : State) : (raiseError e s).tgt = s.tgt := rfl
@[simp] theorem raiseError_res (e : Err) (s : State) : (raiseError e s).res = s.res := rfl
@[simp] theorem raiseError_ana (e : Err) (s : State) : (raiseError e s).ana = s.ana := rfl
@[simp] theorem raiseError_mem (e : Err) (s : State) : (raiseError e s).mem = s.mem := rfl
@[simp] theorem raiseError_dyn (e : Err) (s : State) : (raiseError e s).dyn = s.dyn := rfl
@[simp] theorem raiseError_pout (e : Err) (s : State) : (raiseError e s).pout = s.pout := rfl
@[simp] theorem raiseError_build (e : Err) (s : State) : (raiseError e s).build = s.build := rfl
@[simp] theorem raiseError_events (e : Err) (s : State) : (raiseError e s).events = s.events := rfl
@[simp] theorem raiseError_busResp (e : Err) (s : State) : (raiseError e s).busResp = s.busResp := rfl
@[simp] theorem raiseError_taken (e : Err) (s : State) : (raiseError e s).taken = s.taken := rfl
@[simp] theorem raiseError_nanSeq (e : Err) (s : State) : (raiseError e s).nanSeq = s.nanSeq := rfl

@[simp] theorem State.respond_status (s : State) (ok : Bool) (data : Word) : (s.respond ok data).status = s.status := rfl
@[simp] theorem State.respond_ctrl (s : State) (ok : Bool) (data : Word) : (s.respond ok data).ctrl = s.ctrl := rfl
@[simp] theorem State.respond_irqEn (s : State) (ok : Bool) (data : Word) : (s.respond ok data).irqEn = s.irqEn := rfl
@[simp] theorem State.respond_cfg (s : State) (ok : Bool) (data : Word) : (s.respond ok data).cfg = s.cfg := rfl
@[simp] theorem State.respond_coef (s : State) (ok : Bool) (data : Word) : (s.respond ok data).coef = s.coef := rfl
@[simp] theorem State.respond_con (s : State) (ok : Bool) (data : Word) : (s.respond ok data).con = s.con := rfl
@[simp] theorem State.respond_tgt (s : State) (ok : Bool) (data : Word) : (s.respond ok data).tgt = s.tgt := rfl
@[simp] theorem State.respond_res (s : State) (ok : Bool) (data : Word) : (s.respond ok data).res = s.res := rfl
@[simp] theorem State.respond_ana (s : State) (ok : Bool) (data : Word) : (s.respond ok data).ana = s.ana := rfl
@[simp] theorem State.respond_mem (s : State) (ok : Bool) (data : Word) : (s.respond ok data).mem = s.mem := rfl
@[simp] theorem State.respond_dyn (s : State) (ok : Bool) (data : Word) : (s.respond ok data).dyn = s.dyn := rfl
@[simp] theorem State.respond_pout (s : State) (ok : Bool) (data : Word) : (s.respond ok data).pout = s.pout := rfl
@[simp] theorem State.respond_build (s : State) (ok : Bool) (data : Word) : (s.respond ok data).build = s.build := rfl
@[simp] theorem State.respond_events (s : State) (ok : Bool) (data : Word) : (s.respond ok data).events = s.events := rfl
@[simp] theorem State.respond_busResp (s : State) (ok : Bool) (data : Word) : (s.respond ok data).busResp = some ⟨data, ok⟩ := rfl
@[simp] theorem State.respond_taken (s : State) (ok : Bool) (data : Word) : (s.respond ok data).taken = s.taken := rfl
@[simp] theorem State.respond_nanSeq (s : State) (ok : Bool) (data : Word) : (s.respond ok data).nanSeq = s.nanSeq := rfl

@[simp] theorem State.bumpNaN_status (s : State) : s.bumpNaN.status = s.status := rfl
@[simp] theorem State.bumpNaN_ctrl (s : State) : s.bumpNaN.ctrl = s.ctrl := rfl
@[simp] theorem State.bumpNaN_irqEn (s : State) : s.bumpNaN.irqEn = s.irqEn := rfl
@[simp] theorem State.bumpNaN_cfg (s : State) : s.bumpNaN.cfg = s.cfg := rfl
@[simp] theorem State.bumpNaN_coef (s : State) : s.bumpNaN.coef = s.coef := rfl
@[simp] theorem State.bumpNaN_con (s : State) : s.bumpNaN.con = s.con := rfl
@[simp] theorem State.bumpNaN_tgt (s : State) : s.bumpNaN.tgt = s.tgt := rfl
@[simp] theorem State.bumpNaN_res (s : State) : s.bumpNaN.res = s.res := rfl
@[simp] theorem State.bumpNaN_ana (s : State) : s.bumpNaN.ana = s.ana := rfl
@[simp] theorem State.bumpNaN_mem (s : State) : s.bumpNaN.mem = s.mem := rfl
@[simp] theorem State.bumpNaN_dyn (s : State) : s.bumpNaN.dyn = s.dyn := rfl
@[simp] theorem State.bumpNaN_pout (s : State) : s.bumpNaN.pout = s.pout := rfl
@[simp] theorem State.bumpNaN_build (s : State) : s.bumpNaN.build = s.build := rfl
@[simp] theorem State.bumpNaN_events (s : State) : s.bumpNaN.events = s.events := rfl
@[simp] theorem State.bumpNaN_busResp (s : State) : s.bumpNaN.busResp = s.busResp := rfl
@[simp] theorem State.bumpNaN_taken (s : State) : s.bumpNaN.taken = s.taken := rfl
@[simp] theorem State.bumpNaN_nanSeq (s : State) : s.bumpNaN.nanSeq = s.nanSeq + 1 := rfl

@[simp] theorem Status.raise_configured (st : Status) (b : Sticky) : (st.raise b).configured = st.configured := by cases b <;> rfl
@[simp] theorem Status.raise_aOpen (st : Status) (b : Sticky) : (st.raise b).aOpen = st.aOpen := by cases b <;> rfl
@[simp] theorem Status.raise_resValid (st : Status) (b : Sticky) : (st.raise b).resValid = st.resValid := by cases b <;> rfl
@[simp] theorem Status.raise_tgtSet (st : Status) (b : Sticky) : (st.raise b).tgtSet = st.tgtSet := by cases b <;> rfl
@[simp] theorem Status.raise_errCode (st : Status) (b : Sticky) : (st.raise b).errCode = st.errCode := by cases b <;> rfl

@[simp] theorem Status.raiseIf_configured (st : Status) (c : Bool) (b : Sticky) : (st.raiseIf c b).configured = st.configured := by
  unfold Status.raiseIf; split <;> simp
@[simp] theorem Status.raiseIf_aOpen (st : Status) (c : Bool) (b : Sticky) : (st.raiseIf c b).aOpen = st.aOpen := by
  unfold Status.raiseIf; split <;> simp
@[simp] theorem Status.raiseIf_resValid (st : Status) (c : Bool) (b : Sticky) : (st.raiseIf c b).resValid = st.resValid := by
  unfold Status.raiseIf; split <;> simp
@[simp] theorem Status.raiseIf_tgtSet (st : Status) (c : Bool) (b : Sticky) : (st.raiseIf c b).tgtSet = st.tgtSet := by
  unfold Status.raiseIf; split <;> simp
@[simp] theorem Status.raiseIf_errCode (st : Status) (c : Bool) (b : Sticky) : (st.raiseIf c b).errCode = st.errCode := by
  unfold Status.raiseIf; split <;> simp

/-- Raising a sticky bit sets it and keeps the eight others. -/
@[simp] theorem Status.get_raise (st : Status) (b c : Sticky) :
    (st.raise b).get c = (decide (c = b) || st.get c) := by
  cases b <;> cases c <;> simp [Status.raise, Status.get]

@[simp] theorem Status.raiseIf_true (st : Status) (b : Sticky) : st.raiseIf true b = st.raise b := rfl

@[simp] theorem Status.raiseIf_false (st : Status) (b : Sticky) : st.raiseIf false b = st := rfl

/-- A status is its four state bits, its nine sticky bits and its error code. -/
theorem Status.ext_get {a b : Status} (h1 : a.configured = b.configured) (h2 : a.aOpen = b.aOpen)
    (h3 : a.resValid = b.resValid) (h4 : a.tgtSet = b.tgtSet) (h5 : a.errCode = b.errCode)
    (h : ∀ x, a.get x = b.get x) : a = b := by
  have g := fun x => h x
  have := g .done; have := g .cmdErr; have := g .wrErr; have := g .busErr; have := g .blkOvf
  have := g .unsup; have := g .aDrop; have := g .pPass; have := g .partDrop
  cases a; cases b; simp_all [Status.get]

end Sys2Proof.Machine
end

