-- ==== Sys2Proof/Laws/Ops.lean ====
section
/-! SUPPORT. For each shared operation, one lemma that says everything it can do. -/

namespace Sys2Proof.Machine

/-- The bus checks pass exactly for an aligned 8-byte access to a mapped address. -/
theorem busCheck_ok_iff (p : Config.Params) (addr : Addr) (n : Nat) (pl : Place) :
    busCheck p addr n = .ok pl ↔ n = 8 ∧ addr.toNat % 8 = 0 ∧ placeAt p addr.toNat = some pl := by
  unfold busCheck
  split
  · simp_all
  · split
    · simp_all
    · cases h : placeAt p addr.toNat <;> simp_all

/-- The three ways the bus checks fail, in their order. -/
theorem busCheck_error_cases {p : Config.Params} {addr : Addr} {n : Nat} {e : Err}
    (h : busCheck p addr n = .error e) :
    (n ≠ 8 ∧ e = .busSize) ∨ (n = 8 ∧ addr.toNat % 8 ≠ 0 ∧ e = .busMisaligned) ∨
      (n = 8 ∧ addr.toNat % 8 = 0 ∧ placeAt p addr.toNat = none ∧ e = .busUnmapped) := by
  unfold busCheck at h
  split at h
  · simp_all
  · split at h
    · simp_all
    · cases h' : placeAt p addr.toNat <;> simp_all

/-- Every register stands at its place in the map. -/
theorem placeAt_reg (p : Config.Params) {a : Nat} (h : a < 0x150) :
    placeAt p a = (regTable[a / 8]?).map .reg := by
  simp [placeAt, h]

/-- A read answers with the word of a mapped place, or records an error and answers (0, ERR). -/
theorem memRead_cases (addr : Addr) (n : Nat) (s : State) :
    (∃ pl, busCheck s.build addr n = .ok pl ∧ memRead addr n s = s.respond true (readPlace s pl)) ∨
      (∃ e, busCheck s.build addr n = .error e ∧ memRead addr n s = (raiseError e s).respond false 0#64) := by
  unfold memRead
  cases h : busCheck s.build addr n
  · exact .inr ⟨_, rfl, rfl⟩
  · exact .inl ⟨_, rfl, rfl⟩

/-- A write runs a register's write rule, or records an error. -/
theorem memWrite_cases (addr : Addr) (n : Nat) (v : Word) (s : State) :
    (∃ r, busCheck s.build addr n = .ok (.reg r) ∧ r.access ≠ .ro ∧ memWrite addr n v s = writeReg r v s) ∨
      (∃ pl, busCheck s.build addr n = .ok pl ∧ (∀ r, pl = .reg r → r.access = .ro) ∧
        memWrite addr n v s = raiseError .busReadonly s) ∨
      (∃ e, busCheck s.build addr n = .error e ∧ memWrite addr n v s = raiseError e s) := by
  unfold memWrite writePlace
  cases h : busCheck s.build addr n with
  | error e => exact .inr (.inr ⟨e, rfl, rfl⟩)
  | ok pl =>
    cases pl with
    | reg r =>
      by_cases hr : r.access = .ro
      · exact .inr (.inl ⟨_, rfl, by simpa using hr, by simp [hr]⟩)
      · exact .inl ⟨r, rfl, hr, by simp [hr]⟩
    | filter c k => exact .inr (.inl ⟨_, rfl, by simp, rfl⟩)
    | blk i => exact .inr (.inl ⟨_, rfl, by simp, rfl⟩)

/-- A command past NOP and CONFIGURE runs, or is rejected as not configured. -/
theorem whenConfigured_cases (f : State → State) (s : State) :
    (s.status.configured = true ∧ whenConfigured f s = f s) ∨
      (s.status.configured = false ∧ whenConfigured f s = raiseError .notConfigured s) := by
  unfold whenConfigured
  cases s.status.configured <;> simp

/-- A_FINALIZE closes the open session, or is rejected. -/
theorem finalize_cases (s : State) :
    (s.status.configured = true ∧ s.status.aOpen = true ∧ finalize s = closeSession s) ∨
      (s.status.configured = true ∧ s.status.aOpen = false ∧ finalize s = raiseError .sessionClosed s) ∨
      (s.status.configured = false ∧ finalize s = raiseError .notConfigured s) := by
  unfold finalize whenConfigured
  cases hc : s.status.configured <;> cases ho : s.status.aOpen <;> simp [ho]

/-- CONFIGURE applies its operands, or is rejected by the first failing check. -/
theorem configure_cases (fs : BitVec 20) (chm1 : BitVec 4) (s : State) :
    (configError s.build fs.toNat (chm1.toNat + 1) = none ∧
        configure fs chm1 s = applyConfig fs.toNat (chm1.toNat + 1) s) ∨
      (∃ e, configError s.build fs.toNat (chm1.toNat + 1) = some e ∧ configure fs chm1 s = raiseError e s) := by
  unfold configure
  cases h : configError s.build fs.toNat (chm1.toNat + 1)
  · exact .inl ⟨rfl, rfl⟩
  · exact .inr ⟨_, rfl, rfl⟩

/-- What CONFIGURE's checks accept. -/
theorem configError_none {p : Config.Params} {fs ch : Nat} (h : configError p fs ch = none) :
    p.fsMin ≤ fs ∧ fs ≤ p.fsMax ∧ ch ≤ p.chMax ∧ blockSizeOf fs * ch ≤ p.ringDepth := by
  unfold configError at h
  split at h
  · simp at h
  · split at h
    · simp at h
    · split at h
      · simp at h
      · omega

/-- DISPATCH runs the decoded command, or records why the word is none. -/
theorem dispatchCommand_cases (cw : Word) (s : State) :
    (∃ c, decodeCommand cw = .ok c ∧ dispatchCommand cw s = runCommand c s) ∨
      (∃ r, decodeCommand cw = .error r ∧ dispatchCommand cw s = raiseError (CmdReject.err r) s) := by
  unfold dispatchCommand
  cases h : decodeCommand cw
  · exact .inr ⟨_, rfl, rfl⟩
  · exact .inl ⟨_, rfl, rfl⟩

/-- A write of BLOCK_SIZE stores a value in range in an idle session, or records an error. -/
theorem writeBlockSize_cases (v : Word) (s : State) :
    (sizeBusy s = none ∧ ¬ blockSizeBad s v ∧
        writeBlockSize v s = { s with cfg := { s.cfg with blockSize := v } }) ∨
      (∃ e, writeBlockSize v s = raiseError e s) := by
  unfold writeBlockSize
  cases h : sizeBusy s with
  | some e => exact .inr ⟨e, rfl⟩
  | none =>
    by_cases hv : blockSizeBad s v
    · exact .inr ⟨.wrRange, if_pos hv⟩
    · exact .inl ⟨rfl, hv, if_neg hv⟩

/-- A write of HOP_SIZE stores a value in range in an idle session, or records an error. -/
theorem writeHopSize_cases (v : Word) (s : State) :
    (sizeBusy s = none ∧ ¬ hopSizeBad s v ∧
        writeHopSize v s = { s with cfg := { s.cfg with hopSize := v } }) ∨
      (∃ e, writeHopSize v s = raiseError e s) := by
  unfold writeHopSize
  cases h : sizeBusy s with
  | some e => exact .inr ⟨e, rfl⟩
  | none =>
    by_cases hv : hopSizeBad s v
    · exact .inr ⟨.wrRange, if_pos hv⟩
    · exact .inl ⟨rfl, hv, if_neg hv⟩

/-- A size write is let through exactly in a configured machine whose session is closed or still empty. -/
theorem sizeBusy_none_iff (s : State) :
    sizeBusy s = none ↔
      s.status.configured = true ∧ (s.status.aOpen = true → s.ana.frames = 0 ∧ s.ana.part = []) := by
  unfold sizeBusy
  cases s.status.configured <;> cases s.status.aOpen <;> simp

/-- A beat of the A port is dropped with one event bit, or its sample joins the partial frame. -/
theorem analysisBeat_cases (w : Beat) (s : State) :
    (analysisBeat w s = s.raise .aDrop ∧ (s.status.configured = false ∨ s.status.aOpen = false)) ∨
      (analysisBeat w s = s.raise .unsup ∧ s.status.configured = true ∧ sampleFormat (aFmt s.ctrl) = none) ∨
      (∃ fmt, s.status.configured = true ∧ s.status.aOpen = true ∧ sampleFormat (aFmt s.ctrl) = some fmt ∧
        analysisBeat w s = (pushSampleA (s.nans.part 1) (dec (s.nans [0]) fmt (aBe s.ctrl) w) s).bumpNaN) := by
  unfold analysisBeat
  cases hc : s.status.configured with
  | false => simp
  | true =>
    cases hf : sampleFormat (aFmt s.ctrl) with
    | none => simp
    | some fmt => cases ho : s.status.aOpen <;> simp

/-- A sample that does not complete a frame is held; one that does starts ANALYZE_FRAME. -/
theorem pushSampleA_cases (nan : NaNs) (x : F64) (s : State) :
    (s.ana.part.length + 1 ≠ s.cfg.ch.toNat ∧
        pushSampleA nan x s = { s with ana := { s.ana with part := s.ana.part ++ [x] } }) ∨
      (s.ana.part.length + 1 = s.cfg.ch.toNat ∧
        pushSampleA nan x s = analyzeFrame nan (s.ana.part ++ [x]) { s with ana := { s.ana with part := [] } }) := by
  unfold pushSampleA
  simp only [List.length_append, List.length_singleton]
  by_cases h : s.ana.part.length + 1 = s.cfg.ch.toNat
  · exact .inr ⟨h, by simp [h]⟩
  · exact .inl ⟨h, by simp [h]⟩

/-- A block is kept, lost because block memory is full, or discarded by the absolute gate; in each case it is counted and
the window advances. -/
theorem storeBlock_cases (e : F64) (s : State) :
    (fpLe s.con.absThr e = true ∧ s.ana.nblk < s.build.blkDepth ∧
        storeBlock e s =
          { s with
            ana := { s.ana with
              nemit := s.ana.nemit + 1, rb := s.ana.rb.drop s.cfg.hopSize.toNat, nblk := s.ana.nblk + 1 }
            mem := blkWrite s.mem s.ana.nblk e }) ∨
      (fpLe s.con.absThr e = true ∧ s.build.blkDepth ≤ s.ana.nblk ∧
        storeBlock e s =
          { s with
            ana := { s.ana with nemit := s.ana.nemit + 1, rb := s.ana.rb.drop s.cfg.hopSize.toNat }
            status := s.status.raise .blkOvf }) ∨
      (fpLe s.con.absThr e = false ∧
        storeBlock e s =
          { s with ana := { s.ana with nemit := s.ana.nemit + 1, rb := s.ana.rb.drop s.cfg.hopSize.toNat } }) := by
  unfold storeBlock
  cases hg : fpLe s.con.absThr e with
  | false => simp
  | true =>
    by_cases hn : s.ana.nblk < s.build.blkDepth
    · simp [hn]
    · simp [hn, Nat.le_of_not_lt hn]

/-- A beat of the P port is passed through with one event bit, or its sample joins the partial frame. -/
theorem playbackBeat_cases (w : Beat) (s : State) :
    (s.status.configured = false ∧ playbackBeat w s = passThrough .pPass w s) ∨
      (s.status.configured = true ∧ sampleFormat (pFmt s.ctrl) = none ∧
        playbackBeat w s = passThrough .unsup w s) ∨
      (∃ fmt, s.status.configured = true ∧ sampleFormat (pFmt s.ctrl) = some fmt ∧
        playbackBeat w s = (pushSampleP (s.nans.part 1) fmt (dec (s.nans [0]) fmt (pBe s.ctrl) w) s).bumpNaN) := by
  unfold playbackBeat
  cases hc : s.status.configured with
  | false => simp
  | true => cases hf : sampleFormat (pFmt s.ctrl) <;> simp

/-- A sample that does not complete a frame is held; one that does starts PROCESS_FRAME. -/
theorem pushSampleP_cases (nan : NaNs) (fmt : SampleFormat) (x : F64) (s : State) :
    (s.dyn.part.length + 1 ≠ s.cfg.ch.toNat ∧
        pushSampleP nan fmt x s = { s with dyn := { s.dyn with part := s.dyn.part ++ [x] } }) ∨
      (s.dyn.part.length + 1 = s.cfg.ch.toNat ∧
        pushSampleP nan fmt x s =
          processFrame nan fmt (s.dyn.part ++ [x]) { s with dyn := { s.dyn with part := [] } }) := by
  unfold pushSampleP
  simp only [List.length_append, List.length_singleton]
  by_cases h : s.dyn.part.length + 1 = s.cfg.ch.toNat
  · exact .inr ⟨h, by simp [h]⟩
  · exact .inl ⟨h, by simp [h]⟩

/-- One ramp step: a running ramp counts down and moves the gain, landing on the target; otherwise the gain is the
target. -/
theorem rampStep_cases (nan : NaNs) (d : Dynamics) :
    (d.remain = 0#64 ∧ rampStep nan d = { d with curGain := d.tgtGain }) ∨
      (d.remain = 1#64 ∧ rampStep nan d = { d with remain := 0#64, curGain := d.tgtGain }) ∨
      (1 < d.remain.toNat ∧ rampStep nan d =
        { d with
          remain := d.remain - 1#64
          curGain := fpAdd (nan [2]) d.curGain
            (fpDiv (nan [1]) (fpSub (nan [0]) d.tgtGain d.curGain) (fpOfNat d.remain.toNat)) }) := by
  unfold rampStep
  by_cases h0 : d.remain = 0#64
  · exact .inl ⟨h0, by simp [h0]⟩
  · have hpos : 0#64 < d.remain := by bv_omega
    by_cases h1 : d.remain = 1#64
    · exact .inr (.inl ⟨h1, by simp [h1]⟩)
    · exact .inr (.inr ⟨by bv_omega, by
        have : d.remain - 1#64 ≠ 0#64 := by bv_omega
        simp [hpos, this]⟩)

/-- One step serves the next host event: an operation of the table, the taking of a word, or hardware reset; with none,
nothing happens. -/
theorem step_cases (s : State) :
    (s.events = [] ∧ step s = .next s) ∨
      (∃ e rest i, s.events = e :: rest ∧ decode e = .ok i ∧ step s = exec i { s with events := rest }) ∨
      (∃ rest, s.events = .take :: rest ∧ step s = .next (takeWord { s with events := rest })) ∨
      (∃ rest, s.events = .hardReset :: rest ∧ step s = .next (hardwareReset { s with events := rest })) := by
  unfold step
  cases hs : s.events with
  | nil => simp
  | cons e rest =>
    cases hd : decode e with
    | ok i => exact .inr (.inl ⟨e, rest, i, rfl, hd, by simp only [hd]⟩)
    | error r =>
      cases e with
      | busRead a n => simp [decode] at hd
      | busWrite a n v =>
        simp only [decode] at hd
        split at hd
        · cases h : decodeCommand v <;> simp [h] at hd
        · simp at hd
      | beatA w => simp [decode] at hd
      | beatP w => simp [decode] at hd
      | take =>
        obtain rfl : EventReject.takesWord = r := by simpa [decode] using hd
        exact .inr (.inr (.inl ⟨rest, rfl, rfl⟩))
      | hardReset =>
        obtain rfl : EventReject.resetLine = r := by simpa [decode] using hd
        exact .inr (.inr (.inr ⟨rest, rfl, rfl⟩))

end Sys2Proof.Machine
end

