-- ==== Sys2Proof/Laws/PerInstr.lean ====
section
/-! SUPPORT. What holds of every operation as syntax, one lemma per constructor of Instr. -/

namespace Sys2Proof.Laws

/-- The transaction of an operation is one that the decoder reads as some operation: no encoding is the taking of a word
or the reset line (30_encoding.md R54). -/
def EncodesAnOperation.Statement (i : Instr) : Prop := ∃ j, decode (encode i) = .ok j

/-- A bus write is a command or a plain write. -/
theorem decode_busWrite (addr : Addr) (n : Nat) (v : Word) : ∃ j, decode (.busWrite addr n v) = .ok j := by
  simp only [decode]
  split
  · cases decodeCommand v <;> exact ⟨_, rfl⟩
  · exact ⟨_, rfl⟩

theorem EncodesAnOperation.nop : EncodesAnOperation.Statement .nop := ⟨.nop, by decide⟩

theorem EncodesAnOperation.configure (fs : BitVec 20) (chm1 : BitVec 4) :
    EncodesAnOperation.Statement (.configure fs chm1) := decode_busWrite _ _ _

theorem EncodesAnOperation.aReset : EncodesAnOperation.Statement .aReset := ⟨.aReset, by decide⟩

theorem EncodesAnOperation.aFinalize : EncodesAnOperation.Statement .aFinalize := ⟨.aFinalize, by decide⟩

theorem EncodesAnOperation.dSetTarget : EncodesAnOperation.Statement .dSetTarget := ⟨.dSetTarget, by decide⟩

theorem EncodesAnOperation.dFlush : EncodesAnOperation.Statement .dFlush := ⟨.dFlush, by decide⟩

theorem EncodesAnOperation.dReset : EncodesAnOperation.Statement .dReset := ⟨.dReset, by decide⟩

theorem EncodesAnOperation.regRead (addr : Addr) (n : Nat) :
    EncodesAnOperation.Statement (.regRead addr n) := ⟨_, rfl⟩

theorem EncodesAnOperation.regWrite (addr : Addr) (n : Nat) (v : Word) :
    EncodesAnOperation.Statement (.regWrite addr n v) := decode_busWrite _ _ _

theorem EncodesAnOperation.aBeat (w : Beat) : EncodesAnOperation.Statement (.aBeat w) := ⟨_, rfl⟩

theorem EncodesAnOperation.pBeat (w : Beat) : EncodesAnOperation.Statement (.pBeat w) := ⟨_, rfl⟩

end Sys2Proof.Laws
end

