-- ==== Sys2Proof/Machine/Assembler.lean ====
section
/-! DEFINITION. Host programs: the lines of 30_encoding.md R62 and the host events they stand for. -/

namespace Sys2Proof.Machine

/-- A decimal number as the ratio of two naturals with a sign (30_encoding.md R62). -/
structure Decimal where
  neg : Bool
  num : Nat
  den : Nat
  deriving DecidableEq, Repr

/-- `bits64(d)`: the decimal rounded to binary64 with ties to even (30_encoding.md R62). -/
def Decimal.bits (d : Decimal) : F64 := fpOfRatio d.neg d.num d.den

/-- A line of a host program (30_encoding.md R62). -/
inductive AsmLine where
  /-- A command mnemonic; CONFIGURE with its fields. -/
  | cmd (c : Command)
  /-- `WR NAME, v`. -/
  | wr (r : Reg) (v : Word)
  /-- `WR addr, v`. -/
  | wrAddr (addr : Addr) (v : Word)
  /-- `RD NAME`. -/
  | rd (r : Reg)
  /-- `RD addr`. -/
  | rdAddr (addr : Addr)
  /-- `ABEAT w`. -/
  | abeat (w : Beat)
  /-- `PBEAT w`. -/
  | pbeat (w : Beat)
  /-- `TAKE`. -/
  | take
  /-- `WRF NAME, d`. -/
  | wrf (r : Reg) (d : Decimal)
  /-- `AS16 k0, k1, ...`. -/
  | as16 (ks : List Int)
  /-- `PS16 k0, k1, ...`. -/
  | ps16 (ks : List Int)
  /-- `SET_TARGET meas, ref`. -/
  | setTarget (meas ref : Decimal)
  /-- `CLRSTAT`. -/
  | clrstat
  deriving DecidableEq, Repr

/-- The bus offset of a register (10_state.md R18). -/
def Reg.offset (r : Reg) : Addr := BitVec.ofNat 24 (8 * regTable.idxOf r)

/-- `MemWrite(NAME, 8, v)`. -/
def writeEvent (r : Reg) (v : Word) : HostEvent := .busWrite r.offset 8 v

/-- The beat of a signed 16-bit code, `zext_32(k mod 65536)`. -/
def codeBeat (k : Int) : Beat := BitVec.ofNat 32 (k % 65536).toNat

/-- The host events of a line (30_encoding.md R62). -/
def AsmLine.expand : AsmLine → List HostEvent
  | .cmd c => [commandEvent c]
  | .wr r v => [writeEvent r v]
  | .wrAddr addr v => [.busWrite addr 8 v]
  | .rd r => [.busRead r.offset 8]
  | .rdAddr addr => [.busRead addr 8]
  | .abeat w => [.beatA w]
  | .pbeat w => [.beatP w]
  | .take => [.take]
  | .wrf r d => [writeEvent r d.bits]
  | .as16 ks => ks.map fun k => .beatA (codeBeat k)
  | .ps16 ks => ks.map fun k => .beatP (codeBeat k)
  | .setTarget meas ref =>
    [writeEvent .tgtMeas meas.bits, writeEvent .tgtRef ref.bits, commandEvent .dSetTarget]
  | .clrstat => [writeEvent .status 0x1FF00#64]

/-- The host events of a program, in order (30_encoding.md R62). -/
def assemble (prog : List AsmLine) : List HostEvent := prog.flatMap AsmLine.expand

/-- A state with a program's events put behind those already to come (log 2). -/
def State.load (s : State) (prog : List AsmLine) : State := { s with events := s.events ++ assemble prog }

end Sys2Proof.Machine
end

