-- ==== Sys2Proof/Tests/Slice0.lean ====
section
/-! SUPPORT. Tests. Expected values come from the encodings of 30_encoding.md, the vectors of 95_test_vectors.md and the
examples of the rules; the witnesses show, for each statement with hypotheses, a state and operands that meet them. -/

namespace Sys2Proof.Tests

open Sys2Proof Sys2Proof.Machine

/-! ## Helpers -/

/-- The next state of an operation (every operation has one). -/
def after (i : Instr) (s : State) : State :=
  match exec i s with
  | .next t => t
  | .fault _ => s
  | .refused _ => s

/-- 0.5 and 0.25. -/
def half : F64 := 0x3FE0000000000000#64
def quarter : F64 := 0x3FD0000000000000#64

/-- The toy filter of 95_test_vectors.md: HP_ALPHA = BQ_B0 = 1, the rest 0, so that a session filters to its input. -/
def toy : Coeffs := ⟨f64One, f64One, 0#64, 0#64, 0#64, 0#64⟩

/-- A configured machine of `ch` channels at 8000 Hz with block 4, hop 1, RAMP_FRAMES 2, S16 little-endian ports, the toy
filter and an open session. -/
def ready (ch : Word) : State :=
  { State.reset with
    status := { Status.reset with configured := true, aOpen := true }
    cfg := ⟨8000#64, ch, 4#64, 1#64, 2#64⟩
    coef := toy }

/-- `ready` with the three frames of 0.5 that BE-1 has before its first block. -/
def nearBlock : State :=
  { ready 1#64 with ana := { (ready 1#64).ana with
      filter := ⟨half, half, 0#64, 0#64⟩ :: List.replicate 7 FilterState.zero
      rb := [[half], [half], [half]], frames := 3 } }

/-- `ready` stereo with one sample held on each port. -/
def held : State :=
  { ready 2#64 with
    ana := { (ready 2#64).ana with part := [half] }
    dyn := { (ready 2#64).dyn with part := [half] } }

/-- `ready` with the kept energies of GA-1: 0.25, 0.25 and 0.0009765625. -/
def kept3 : State :=
  { ready 1#64 with
    mem := blkWrite (blkWrite (blkWrite [] 0 quarter) 1 quarter) 2 0x3F50000000000000#64
    ana := { (ready 1#64).ana with nblk := 3, nemit := 3, frames := 12 } }

/-! ## Decoding: words written out from the encoding -/

-- Format Z (30_encoding.md R52): 63..32 zero, 31..8 zero, then OPC.
theorem test_decode_nop : decode (.busWrite 0x30#24 8 (0#32 ++ 0#24 ++ 0b00000000#8)) = .ok .nop := by decide
theorem test_decode_aReset : decode (.busWrite 0x30#24 8 (0#32 ++ 0#24 ++ 0b00000010#8)) = .ok .aReset := by decide
theorem test_decode_aFinalize :
    decode (.busWrite 0x30#24 8 (0#32 ++ 0#24 ++ 0b00000011#8)) = .ok .aFinalize := by decide
theorem test_decode_dSetTarget :
    decode (.busWrite 0x30#24 8 (0#32 ++ 0#24 ++ 0b00010000#8)) = .ok .dSetTarget := by decide
theorem test_decode_dFlush : decode (.busWrite 0x30#24 8 (0#32 ++ 0#24 ++ 0b00010001#8)) = .ok .dFlush := by decide
theorem test_decode_dReset : decode (.busWrite 0x30#24 8 (0#32 ++ 0#24 ++ 0b00010010#8)) = .ok .dReset := by decide
-- Format C (R52): 63..32 zero, FS in 31..12, CHM1 in 11..8, OPC 0x01. EN-2: 48000 = 0b00001011101110000000, 2 channels.
theorem test_decode_configure :
    decode (.busWrite 0x30#24 8 (0#32 ++ 0b00001011101110000000#20 ++ 0b0001#4 ++ 0b00000001#8)) =
      .ok (.configure 48000#20 1#4) := by decide
theorem test_decode_configure_word : -- EN-4
    decode (.busWrite 0x30#24 8 0x000000002EE00701#64) = .ok (.configure 192000#20 7#4) := by decide
theorem test_decode_regRead : decode (.busRead 0x28#24 8) = .ok (.regRead 0x28#24 8) := by decide
theorem test_decode_regWrite : decode (.busWrite 0x18#24 8 0x2#64) = .ok (.regWrite 0x18#24 8 0x2#64) := by decide
theorem test_decode_aBeat : decode (.beatA 0x00004000#32) = .ok (.aBeat 0x00004000#32) := by decide
theorem test_decode_pBeat : decode (.beatP 0x0000003F#32) = .ok (.pBeat 0x0000003F#32) := by decide
-- EN-7, EN-9, EN-10, EN-11: words that are no command stay plain writes, and are rejected by reason.
theorem test_decode_rejects :
    [0x4#64, 0xFF#64, 0x102#64, 0x100000001#64, 0x100000004#64].map decodeCommand =
      [.error .illegalOpcode, .error .illegalOpcode, .error .reservedBits, .error .reservedBits,
        .error .illegalOpcode] := by decide
theorem test_decodeTableWord :
    [decodeTableWord 64 0, decodeTableWord 64 1, decodeTableWord 64 2, decodeTableWord 64 3, decodeTableWord 64 16,
      decodeTableWord 64 17, decodeTableWord 64 18, decodeTableWord 32 0, decodeTableWord 0 0] =
    [some .nop, some (.configure 0#20 0#4), some .aReset, some .aFinalize, some .dSetTarget, some .dFlush,
      some .dReset, some (.aBeat 0#32), none] := by decide
-- The assembler of R62 builds the same transactions.
theorem test_assemble :
    assemble [.cmd (.configure 48000#20 1#4), .wr .ctrl 3#64, .rd .dRemain, .as16 [-16384], .take, .clrstat] =
      [.busWrite 0x30#24 8 0x0BB80101#64, .busWrite 0x18#24 8 3#64, .busRead 0x138#24 8, .beatA 0xC000#32, .take,
        .busWrite 0x28#24 8 0x1FF00#64] := by decide

/-! ## WellFormed -/

theorem test_wf_refuses_command_words :
    [0x0#64, 0x0BB80101#64, 0x2#64, 0x3#64, 0x10#64, 0x11#64, 0x12#64].map
      (fun cw => Instr.wf (.regWrite 0x30#24 8 cw)) = List.replicate 7 false := by decide
theorem test_wf_keeps_other_writes :
    Instr.wf (.regWrite 0x30#24 8 0x4#64) = true ∧ Instr.wf (.regWrite 0x30#24 4 0x2#64) = true ∧
      Instr.wf (.regWrite 0x28#24 8 0x2#64) = true := by decide

/-! ## Arithmetic and samples -/

-- R91's example: 0.5 / 0.625 = 0.8 rounded, and 0.5 * 1.0 + 0.5 * 0.8 = 0.9 rounded.
theorem test_fpDiv : fpDiv 0#64 half 0x3FE4000000000000#64 = 0x3FE999999999999A#64 := by decide +kernel
-- 0.1 + 0.2 and its well known rounding; the smallest subnormal is kept.
theorem test_fpAdd :
    fpAdd 0#64 0x3FB999999999999A#64 0x3FC999999999999A#64 = 0x3FD3333333333334#64 ∧
      fpAdd 0#64 0x1#64 0x1#64 = 0x2#64 := by decide +kernel
-- GA-4: (32767 / 32768)^2.
theorem test_fpMul : fpMul 0#64 0x3FEFFFC000000000#64 0x3FEFFFC000000000#64 = 0x3FEFFF8000800000#64 := by
  decide +kernel
theorem test_fpSqrt : fpSqrt 0#64 f64Two = 0x3FF6A09E667F3BCD#64 := by decide +kernel
-- DC-4, DC-5, DC-7, DC-13, DC-15.
theorem test_dec :
    [dec 0#64 .s16 false 0xFF7F#32, dec 0#64 .s16 true 0xFF7F#32, dec 0#64 .s24 false 0xFF000001#32,
      dec 0#64 .f32 true 0x3F#32, dec 0#64 .f32 false 0x1#32] =
    [0xBF70200000000000#64, 0x3FEFFFC000000000#64, 0x3E80000000000000#64, half, 0x36A0000000000000#64] := by
  decide +kernel
-- EC-1, EC-4, EC-5, EC-6, EC-10, EC-11, EC-14.
theorem test_enc :
    [enc .s16 false f64One, enc .s16 false 0x3EF0000000000000#64, enc .s16 false 0x3F08000000000000#64,
      enc .s16 true half, enc .f32 false 0x3FD5555555555555#64, enc .f32 false 0x8000000000000000#64,
      enc .s16 false (clampOut 0xC008000000000000#64)] =
    [0x7FFF#32, 0x0#32, 0x2#32, 0x40#32, 0x3EAAAAAB#32, 0x80000000#32, 0x8000#32] := by decide +kernel

/-! ## Operations, one step each -/

theorem test_fetch_runs_nop : step (State.reset.withFetchWord 64 0) = .next State.reset := rfl
theorem test_nop : exec .nop State.reset = .next State.reset := rfl
-- CONFIGURE 48000, 2 (R101's example) and its errors (EN-5, EN-6).
theorem test_configure :
    let t := after (.configure 48000#20 1#4) State.reset
    t.cfg = ⟨48000#64, 2#64, 19200#64, 4800#64, 4800#64⟩ ∧ t.status.configured = true ∧ t.status.aOpen = true := by
  decide
theorem test_configure_rejects :
    (after (.configure 96000#20 15#4) State.reset).status.errCode = 0x05#8 ∧
      (after (.configure 0#20 0#4) State.reset).status.errCode = 0x04#8 := by decide
theorem test_aReset :
    let t := after .aReset held
    t.status.partDrop = true ∧ t.ana = Analysis.fresh 8 ∧ t.dyn = held.dyn := by decide
theorem test_aReset_unconfigured : (after .aReset State.reset).status.errCode = 0x03#8 := by decide
-- GA-1: two of the three energies survive.
theorem test_aFinalize :
    let t := after .aFinalize kept3
    t.res.nabs = 3#64 ∧ t.res.nrel = 2#64 ∧ t.status.aOpen = false ∧ t.status.done = true := by decide +kernel
-- GA-8: a partial frame is dropped and the result is invalid.
theorem test_aFinalize_partial :
    let t := after .aFinalize held
    t.status.partDrop = true ∧ t.ana.part = [] ∧ t.res = ⟨f64NegInf, 0#64, 0#64, f64Zero⟩ := by decide +kernel
-- DM-3: 20 dB is gain 10; DM-6: an invalid measurement is gain 1.
theorem test_dSetTarget :
    let t := after .dSetTarget { ready 1#64 with tgt := ⟨0xC041000000000000#64, 0xC02C000000000000#64⟩ }
    t.dyn.tgtGain = f64Ten ∧ t.dyn.remain = 2#64 ∧ t.status.tgtSet = true := by decide +kernel
theorem test_dSetTarget_invalid : (after .dSetTarget (ready 1#64)).dyn.tgtGain = f64One := by decide +kernel
-- R94's example.
def limited : State :=
  { held with
    status := { held.status with tgtSet := true }
    dyn := { held.dyn with curGain := half, tgtGain := f64Ten, env := half } }
theorem test_dFlush :
    (after .dFlush limited).dyn = ⟨f64One, f64Ten, f64One, 2#64, [], 0⟩ ∧
      (after .dFlush limited).status.partDrop = true := by decide
theorem test_dReset : (after .dReset limited).dyn = ⟨f64One, f64Ten, f64One, 2#64, [], 0⟩ := by decide
-- MB-2 and MB-4.
theorem test_regRead :
    (after (.regRead 0x008#24 8) State.reset).busResp = some ⟨0x00002EE0001F4008#64, true⟩ := by decide
theorem test_regRead_size :
    let t := after (.regRead 0x008#24 4) State.reset
    t.busResp = some ⟨0#64, false⟩ ∧ t.status.errCode = 0x20#8 := by decide
-- MB-14 and MB-12.
theorem test_regWrite_readonly :
    (after (.regRead 0x028#24 8) (after (.regWrite 0x000#24 8 0#64) State.reset)).busResp =
      some ⟨0x0000000023000800#64, true⟩ := by decide
theorem test_regWrite_size : (after (.regWrite 0x003#24 4 0#64) State.reset).status.errCode = 0x20#8 := by decide
-- R63's example: stereo, 0.5 is held.
theorem test_aBeat_holds : (after (.aBeat 0x4000#32) (ready 2#64)).ana.part = [half] := by decide +kernel
-- BE-1: the fourth frame of 0.5 emits a block of energy 0.25.
theorem test_aBeat_emits :
    let t := after (.aBeat 0x4000#32) nearBlock
    t.ana.nblk = 1 ∧ blkRead t.mem 0 = quarter ∧ t.ana.rb.length = 3 ∧ t.ana.frames = 4 := by decide +kernel
-- Unity gain passes a sample below LIM_THR (R98); an unconfigured beat is copied.
theorem test_pBeat :
    let t := after (.pBeat 0x4000#32) (ready 1#64)
    t.pout = [0x4000#32] ∧ t.dyn.frames = 1 ∧ t.dyn.env = f64One := by decide +kernel
theorem test_pBeat_passes :
    (after (.pBeat 0xDEADBEEF#32) State.reset).pout = [0xDEADBEEF#32] ∧
      (after (.pBeat 0xDEADBEEF#32) State.reset).status.pPass = true := by decide

/-! ## Witnesses: states and operands that meet each statement's hypotheses -/

theorem witness_DecodeInvertsEncode :
    Instr.wf (.regWrite 0x30#24 8 0x13#64) = true ∧ Instr.wf (.configure 0xFFFFF#20 15#4) = true := by decide
theorem witness_EncodeInvertsDecode :
    decode (.busWrite 0x30#24 8 0xFFFFFF01#64) = .ok (.configure 0xFFFFF#20 15#4) ∧
      decode (.busWrite 0x30#24 8 0x13#64) = .ok (.regWrite 0x30#24 8 0x13#64) := by decide
theorem witness_StepRunsDecodedOperation :
    { State.reset with events := [.beatA 0#32, .take] }.events = .beatA 0#32 :: [.take] ∧
      decode (.beatA 0#32) = .ok (.aBeat 0#32) := by decide
theorem witness_IdleAndTake :
    State.reset.events = [] ∧
      { State.reset with events := [.take], pout := [1#32] }.events = .take :: [] ∧
      { State.reset with events := [.take], pout := [1#32] }.pout = 1#32 :: [] := by decide
theorem witness_HardwareResetValues : { ready 1#64 with events := [.hardReset] }.events = .hardReset :: [] := by decide
-- One word at the edge of each clause: the last legal and first illegal opcodes, bit 32, bit 8, an unconfigured command.
theorem witness_CommandDispatch :
    ([0x04#64, 0x13#64, 0xFF#64, 0x100000004#64].all fun cw =>
      decide (cw.extractLsb' 0 8 ∉ [0x00#8, 0x01#8, 0x02#8, 0x03#8, 0x10#8, 0x11#8, 0x12#8])) = true ∧
    ([0x100000000#64, 0x8000000000000001#64].all fun cw => decide (cw.extractLsb' 32 32 ≠ 0#32)) = true ∧
    ([0x102#64, 0x80000012#64].all fun cw =>
      decide (cw.extractLsb' 0 8 ≠ 0x01#8 ∧ cw.extractLsb' 8 24 ≠ 0#24)) = true ∧
    ((0xFFFFFF01#64).extractLsb' 32 32 = 0#32 ∧ (0xFFFFFF01#64).extractLsb' 0 8 = 0x01#8) ∧
    ((0x10#64).extractLsb' 32 32 = 0#32 ∧ (0x10#64).extractLsb' 8 24 = 0#24 ∧
      State.reset.status.configured = false) := by decide
-- MB-2's PARAM0 and R6's default depths: 8, 8000, 192000; 65536, 614400. R6's least and greatest values are legal too.
theorem witness_RegisterReads :
    (Config.defaultBuild.Legal ∧ param0Word Config.defaultBuild = 0x00002EE0001F4008#64 ∧
      param1Word Config.defaultBuild = 0x0009600000010000#64 ∧ Config.defaultBuild.ringDepth < 2 ^ 32) ∧
    { Config.defaultBuild with
      chMax := 16, fsMin := 10, fsMax := 1048575, blkDepth := 1966080, ringDepth := 2 ^ 32 - 1 }.Legal ∧
    (after (.regRead 0x148#24 8) held).busResp = some ⟨1#64, true⟩ ∧
      (after (.regRead 0x000#24 8) held).busResp = some ⟨0x4B574C4400070001#64, true⟩ := by decide
-- The first and last channel and entry.
theorem witness_WindowReads :
    State.reset.build.Legal ∧ 7 < State.reset.build.chMax ∧
      State.reset.ana.filter[7]? = some FilterState.zero ∧ State.reset.ana.filter[0]? = some FilterState.zero ∧
      65535 < State.reset.build.blkDepth ∧ kept3.build.Legal ∧ 2 < kept3.ana.nblk ∧ ¬ 3 < kept3.ana.nblk := by decide
-- Sizes 7 and 9; misalignment by 1 and by 7; the addresses just past the registers, the filter window and block memory.
theorem witness_BusErrors :
    State.reset.build.Legal ∧ 7 ≠ 8 ∧ 9 ≠ 8 ∧ (0x001#24).toNat % 8 ≠ 0 ∧ (0x14F#24).toNat % 8 ≠ 0 ∧
      ([0x000150#24, 0x0007F8#24, 0x000900#24, 0x0FFFF8#24, 0x180000#24, 0xFFFFF8#24].all fun a =>
        decide (a.toNat % 8 = 0 ∧ ¬ a.toNat < 0x150 ∧
          ¬ (0x800 ≤ a.toNat ∧ a.toNat < 0x800 + 32 * State.reset.build.chMax) ∧
          ¬ (0x100000 ≤ a.toNat ∧ a.toNat < 0x100000 + 8 * State.reset.build.blkDepth))) = true := by decide
theorem witness_ReadOnlyWrites :
    State.reset.build.Legal ∧
      ([0x000#24, 0x148#24, 0x800#24, 0x8F8#24, 0x100000#24, 0x17FFF8#24].all fun a =>
        decide (a.toNat % 8 = 0)) = true ∧
      (0x800 ≤ (0x8F8#24).toNat ∧ (0x8F8#24).toNat < 0x800 + 32 * State.reset.build.chMax) ∧
      (0x100000 ≤ (0x17FFF8#24).toNat ∧ (0x17FFF8#24).toNat < 0x100000 + 8 * State.reset.build.blkDepth) := by decide
theorem witness_RegisterWrites :
    (after (.regWrite 0x020#24 8 0xFFFFFFFFFFFFFFFF#64) State.reset).irqEn = 0x1FF00#64 ∧
      (after (.regWrite 0x0B0#24 8 0x7FF8000000000001#64) State.reset).con.absThr = 0x7FF8000000000001#64 := by decide
-- Unconfigured; busy by a partial frame and by a frame; free by an empty and by a closed session.
theorem witness_SizeWrites :
    State.reset.status.configured = false ∧
      (held.status.configured = true ∧ held.status.aOpen = true ∧ held.ana.part ≠ []) ∧
      (nearBlock.status.configured = true ∧ nearBlock.status.aOpen = true ∧ nearBlock.ana.frames ≠ 0) ∧
      ((ready 1#64).status.configured = true ∧
        ¬ ((ready 1#64).status.aOpen = true ∧ ((ready 1#64).ana.frames ≠ 0 ∨ (ready 1#64).ana.part ≠ []))) := by decide
theorem witness_RaisingRecordsOnly : (raiseError .busReadonly State.reset).status.errCode = 0x23#8 := by decide
theorem witness_ErrorsArePrecise :
    exec .aFinalize State.reset = .next (raiseError .notConfigured State.reset) ∧
      (raiseError .notConfigured State.reset).status.errCode ≠ State.reset.status.errCode := ⟨rfl, by decide⟩
theorem witness_StickyBitsStay :
    exec .nop (after .aReset held) = .next (after .aReset held) ∧
      (∀ v, Instr.nop ≠ .regWrite 0x000028#24 8 v) ∧ (after .aReset held).status.get .partDrop = true :=
  ⟨rfl, fun _ => nofun, by decide⟩
-- One Hz outside each end; one channel too many; a ring one sample short of 192 kHz times 8 channels.
theorem witness_ConfigureRejects :
    (7999#20).toNat < State.reset.build.fsMin ∧ State.reset.build.fsMax < (192001#20).toNat ∧
      (State.reset.build.fsMin ≤ (8000#20).toNat ∧ (8000#20).toNat ≤ State.reset.build.fsMax ∧
        State.reset.build.chMax < (8#4).toNat + 1) ∧
      ((7#4).toNat + 1 ≤ State.reset.build.chMax ∧
        { State.reset.build with ringDepth := 614399 }.ringDepth < (2 * (192000#20).toNat + 2) / 5 * ((7#4).toNat + 1)) := by
  decide
theorem witness_ConfigureApplies :
    State.reset.build.fsMin ≤ (8000#20).toNat ∧ (192000#20).toNat ≤ State.reset.build.fsMax ∧
      (7#4).toNat + 1 ≤ State.reset.build.chMax ∧
      (2 * (192000#20).toNat + 2) / 5 * ((7#4).toNat + 1) ≤ State.reset.build.ringDepth := by decide
theorem witness_ConfigureDerivesCoefficients :
    configError State.reset.build (48000#20).toNat ((1#4).toNat + 1) = none := by decide
theorem witness_ABeatHoldsSample :
    (ready 2#64).status.configured = true ∧ (ready 2#64).status.aOpen = true ∧
      sampleFormat ((ready 2#64).ctrl.extractLsb' 0 3) = some .s16 ∧
      (ready 2#64).ana.part.length + 1 ≠ (ready 2#64).cfg.ch.toNat := by decide
theorem witness_ABeatFiltersFrame :
    held.status.configured = true ∧ held.status.aOpen = true ∧
      sampleFormat (held.ctrl.extractLsb' 0 3) = some .s16 ∧ held.ana.part.length + 1 = held.cfg.ch.toNat ∧
      held.cfg.ch.toNat ≤ held.ana.filter.length ∧ held.ana.rb.length + 1 < held.cfg.blockSize.toNat ∧
      held.ana.filter[1]? = some FilterState.zero := by decide
/-- `nearBlock` with a full block memory, and with a threshold above every finite energy. -/
def fullBlock : State := { nearBlock with build := { nearBlock.build with blkDepth := 0 } }
def deafBlock : State := { nearBlock with con := { nearBlock.con with absThr := 0x7FF0000000000000#64 } }
theorem witness_ABeatEmitsBlock :
    nearBlock.mem.wf = true ∧ nearBlock.status.configured = true ∧ nearBlock.status.aOpen = true ∧
      sampleFormat (nearBlock.ctrl.extractLsb' 0 3) = some .s16 ∧
      nearBlock.ana.part.length + 1 = nearBlock.cfg.ch.toNat ∧
      nearBlock.cfg.blockSize.toNat ≤ nearBlock.ana.rb.length + 1 := by decide
-- Each gate clause: the kept, the lost and the discarded block.
theorem witness_ABeatEmitsBlock_clauses :
    (after (.aBeat 0x4000#32) nearBlock).ana.nblk = 1 ∧
      (after (.aBeat 0x4000#32) fullBlock).status.blkOvf = true ∧
      (after (.aBeat 0x4000#32) deafBlock).ana.nblk = 0 ∧
      (after (.aBeat 0x4000#32) deafBlock).ana.nemit = 1 := by decide +kernel
theorem witness_ABeatDropped :
    State.reset.status.configured = false ∧ { ready 1#64 with ctrl := 4#64 }.ctrl.getLsbD 2 = true ∧
      (ready 1#64).status.configured = true ∧ (ready 1#64).ctrl.getLsbD 2 = false ∧
      (after .aFinalize (ready 1#64)).status.aOpen = false := by decide
theorem witness_ChannelsAreIndependent :
    let f : FilterState := ⟨half, half, 0#64, 0#64⟩
    [FilterState.zero, f][1]? = some f ∧ [f, f, f][1]? = some f ∧ [half, f64One][1]? = some f64One ∧
      [f64Zero, f64One][1]? = some f64One ∧ [half, f64One].length ≤ [FilterState.zero, f].length := by decide
theorem witness_BlockEnergyNonnegative :
    0 < 1 ∧ 1 < 2 ^ 53 ∧ ∀ frame ∈ [[f64NegOne, half]], ∀ x ∈ frame, fpIsFinite x = true := by
  simp only [List.forall_mem_cons, List.not_mem_nil, false_implies, implies_true]
  decide
theorem witness_RetainedEntriesNeverRewritten :
    kept3.mem.wf = true ∧ step kept3 = .next kept3 ∧ kept3.ana.nblk ≠ 0 :=
  ⟨by decide +kernel, rfl, by decide⟩
theorem witness_AResetOpensSession :
    held.status.configured = true ∧ State.reset.status.configured = false := by decide
theorem witness_AFinalizeReports : kept3.status.configured = true ∧ kept3.status.aOpen = true := by decide
theorem witness_FinalizeNeedsOpenSession :
    (after .aFinalize (ready 1#64)).status.configured = true ∧ (after .aFinalize (ready 1#64)).status.aOpen = false ∧
      (ready 1#64).status.configured = true ∧ (ready 1#64).status.aOpen = true := by decide
theorem witness_GainIsUnityWithoutCorrection :
    fpIsFinite f64NegInf = false ∧ fpIsNaN 0x7FF8000000000000#64 = true ∧ fpIsFinite 0xC02C000000000000#64 = true ∧
      fpLt f64Zero Consts.reset.minGainDb = false ∧ fpLt Consts.reset.maxGainDb f64Zero = false := by decide
/-- Bounds in the wrong order (DM-11), and bounds that meet. -/
def inverted : Consts := { Consts.reset with minGainDb := f64Ten, maxGainDb := f64Zero }
def pinned : Consts := { Consts.reset with minGainDb := f64Ten, maxGainDb := f64Ten }
theorem witness_GainIsClamped :
    fpIsFinite 0xC034000000000000#64 = true ∧ fpIsNaN 0xC02C000000000000#64 = false ∧
      fpLe Consts.reset.minGainDb Consts.reset.maxGainDb = true ∧
      fpLe pinned.minGainDb pinned.maxGainDb = true ∧ fpLt pinned.maxGainDb pinned.minGainDb = false ∧
      fpLe Consts.reset.minGainDb (fpSub 0#64 0xC02C000000000000#64 0xC034000000000000#64) = true ∧
      fpLe (fpSub 0#64 0xC02C000000000000#64 0xC034000000000000#64) Consts.reset.maxGainDb = true ∧
      fpLt inverted.maxGainDb inverted.minGainDb = true := by decide +kernel
-- DM-4 (M = -60) lies above MAX_GAIN_DB, DM-5 (M = +20) below MIN_GAIN_DB, and a NaN bound does not clamp DM-4.
theorem witness_GainIsClamped_clauses :
    fpLt Consts.reset.maxGainDb (fpSub 0#64 0xC02C000000000000#64 0xC04E000000000000#64) = true ∧
      fpLt (fpSub 0#64 0xC02C000000000000#64 0x4034000000000000#64) Consts.reset.minGainDb = true ∧
      clampDb Consts.reset (fpSub 0#64 0xC02C000000000000#64 0xC04E000000000000#64) = 0x4038000000000000#64 ∧
      clampDb Consts.reset (fpSub 0#64 0xC02C000000000000#64 0x4034000000000000#64) = 0xC038000000000000#64 ∧
      fpIsNaN 0x7FF8000000000000#64 = true ∧
      clampDb { Consts.reset with maxGainDb := 0x7FF8000000000000#64 } 0x4047000000000000#64 =
        0x4047000000000000#64 := by decide +kernel
theorem witness_GainExponentDecreases :
    fpIsFinite 0xC034000000000000#64 = true ∧ fpIsFinite 0xC02C000000000000#64 = true ∧
      fpIsNaN 0xC02C000000000000#64 = false ∧ fpLe Consts.reset.minGainDb Consts.reset.maxGainDb = true ∧
      fpLe 0xC034000000000000#64 0xC02C000000000000#64 = true := by decide
theorem witness_SetTargetPublishes : (ready 1#64).status.configured = true := by decide
theorem witness_PBeatHoldsSample :
    (ready 2#64).status.configured = true ∧ sampleFormat ((ready 2#64).ctrl.extractLsb' 4 3) = some .s16 ∧
      (ready 2#64).dyn.part.length + 1 ≠ (ready 2#64).cfg.ch.toNat := by decide
theorem witness_PBeatProcessesFrame :
    held.status.configured = true ∧ sampleFormat (held.ctrl.extractLsb' 4 3) = some .s16 ∧
      held.dyn.part.length + 1 = held.cfg.ch.toNat := by decide
theorem witness_PBeatPassesThrough :
    State.reset.status.configured = false ∧ (ready 1#64).status.configured = true ∧
      { ready 1#64 with ctrl := 0x40#64 }.ctrl.getLsbD 6 = true := by decide
-- D_REMAIN 0, 1 and 2 with the fewest frames that suffice.
theorem witness_RampReachesTarget :
    max 1 (0#64 : Word).toNat ≤ 1 ∧ max 1 (1#64 : Word).toNat ≤ 1 ∧ max 1 (2#64 : Word).toNat ≤ 2 := by decide
-- A peak exactly at LIM_THR does not exceed it; a peak of 1.0 over LIM_THR 0.5 asks for the envelope 0.5.
theorem witness_LimiterKeepsSettledEnvelope :
    fpLt Consts.reset.limThr Consts.reset.limThr = false ∧ fpLt half f64One = true ∧
      fpEq (fpDiv 0#64 half f64One) half = true := by decide +kernel
theorem witness_EnvelopeStaysInUnitRange :
    fpLe f64Zero Consts.reset.limThr = true ∧ fpLe f64Zero half = true ∧ fpLe half f64One = true ∧
      fpLe f64Zero Consts.reset.atkCoef = true ∧ fpLe Consts.reset.atkCoef f64One = true ∧
      fpLe f64Zero Consts.reset.relCoef = true ∧ fpLe Consts.reset.relCoef f64One = true ∧
      fpLe f64Zero f64One = true ∧ fpLe f64One f64One = true := by decide
-- A machine about to process a frame, with its envelope at 1.0 and at 0.0.
theorem witness_EnvelopeStaysInUnitRange_step :
    step { ready 1#64 with events := [.beatP 0x7FFF#32] } = exec (.pBeat 0x7FFF#32) (ready 1#64) ∧
      fpLe f64Zero (ready 1#64).con.limThr = true ∧ fpLe (ready 1#64).con.atkCoef f64One = true ∧
      fpLe f64Zero (ready 1#64).con.atkCoef = true ∧ fpLe (ready 1#64).con.relCoef f64One = true ∧
      fpLe f64Zero (ready 1#64).con.relCoef = true ∧ (ready 1#64).dyn.env = f64One ∧
      fpLe f64Zero f64Zero = true ∧ fpLe f64Zero f64One = true := ⟨rfl, by decide⟩
theorem witness_FlushAndResetRestore :
    limited.status.configured = true ∧ State.reset.status.configured = false := by decide
theorem witness_ActiveFollowsTheTarget :
    configError State.reset.build (8000#20).toNat ((0#4).toNat + 1) = none ∧ limited.status.configured = true ∧
      limited.cfg.rampFrames ≠ 0#64 ∧ limited.status.tgtSet = true := by decide
theorem witness_OutputWithinFullScale :
    held.status.configured = true ∧ sampleFormat (held.ctrl.extractLsb' 4 3) = some .s16 ∧
      held.dyn.part.length + 1 = held.cfg.ch.toNat := by decide
-- EC-12, EC-13, EC-14, and both ends of CLAMP; EC-4 and EC-5 are the ties, EC-1 and EC-2 the ends of the code range.
theorem witness_OutputWithinFullScale_clauses :
    (fpIsNaN 0x7FF8000000000000#64 = true ∧ fpLt f64One 0x3FF6800000000000#64 = true ∧
      fpLt 0xC008000000000000#64 f64NegOne = true ∧ fpLe f64NegOne f64NegOne = true ∧ fpLe f64One f64One = true) ∧
    fpVal 0x3EF0000000000000#64 * 2 ^ 15 * 2 = 2 ^ 1074 ∧ fpVal 0x3F08000000000000#64 * 2 ^ 15 * 2 = 3 * 2 ^ 1074 ∧
    [enc .s16 false f64One, enc .s16 false f64NegOne, enc .s24 true f64One, enc .f32 true half] =
      [0x7FFF#32, 0x8000#32, 0x00FFFF7F#32, 0x3F#32] ∧
    fpIsFinite (dec 0x7FF8000000000000#64 .f32 false 0x3EAAAAAB#32) = true := by decide +kernel
theorem witness_IntegerDecodeIsExact :
    dec 0#64 .s16 true 0x0000FF7F#32 = 0x3FEFFFC000000000#64 ∧ dec 0#64 .s32 true 0x80#32 = f64NegOne := by
  decide +kernel
-- Code 4 and 7; the exponents 0x00, 0x01, 0xFE and 0xFF, the last with fractions 0 (DC-14) and not 0.
theorem witness_IntegerDecodeIsExact_clauses :
    sampleFormat 4#3 = none ∧ sampleFormat 7#3 = none ∧ fpIsNaN 0x7FF8000000000000#64 = true ∧
      ([0x00000001#32, 0x00800000#32, 0x7F7FFFFF#32, 0x7F800000#32, 0xFF800001#32].map fun u : Beat =>
        u.extractLsb' 23 8) = [0x00#8, 0x01#8, 0xFE#8, 0xFF#8, 0xFF#8] ∧
      (0x7F800000#32).extractLsb' 0 23 = 0#23 ∧ (0xFF800001#32).extractLsb' 0 23 ≠ 0#23 := by decide
-- The most negative integer code and both ends of the binary32 range.
theorem witness_SampleRoundTrip :
    fpIsNaN 0x7FF8000000000000#64 = true ∧
    ((0x8000#32).toNat < 256 ^ SampleFormat.s16.bytes ∧ fpLe f64NegOne (dec 0x7FF8000000000000#64 .s16 false 0x8000#32) = true ∧
      fpLe (dec 0x7FF8000000000000#64 .s16 false 0x8000#32) f64One = true) ∧
    ((0x3F800000#32).toNat < 256 ^ SampleFormat.f32.bytes ∧
      fpLe f64NegOne (dec 0x7FF8000000000000#64 .f32 false 0x3F800000#32) = true ∧
      fpLe (dec 0x7FF8000000000000#64 .f32 false 0x3F800000#32) f64One = true) ∧
    fpLe f64NegOne (dec 0x7FF8000000000000#64 .f32 false 0xBF800000#32) = true := by decide +kernel
theorem witness_PlaybackRoundTrip :
    held.status.configured = true ∧ sampleFormat (held.ctrl.extractLsb' 4 3) = some .s16 ∧
      held.dyn.part = [0x4000#32].map (dec 0#64 .s16 (held.ctrl.getLsbD 7)) ∧
      [0x4000#32].length + 1 = held.cfg.ch.toNat ∧ held.dyn.curGain = f64One ∧ held.dyn.tgtGain = f64One ∧
      held.dyn.env = f64One ∧
      ∀ o ∈ [0x4000#32] ++ [0xC000#32], o.toNat < 256 ^ SampleFormat.s16.bytes ∧
        ∀ n, fpLe (fpAbs (dec n .s16 (held.ctrl.getLsbD 7) o)) f64One = true ∧
          fpLt held.con.limThr (fpAbs (dec n .s16 (held.ctrl.getLsbD 7) o)) = false := by
  have h : ∀ o ∈ [0x4000#32] ++ [0xC000#32], o.toNat < 256 ^ SampleFormat.s16.bytes ∧
      fpLe (fpAbs (dec 0#64 .s16 (held.ctrl.getLsbD 7) o)) f64One = true ∧
        fpLt held.con.limThr (fpAbs (dec 0#64 .s16 (held.ctrl.getLsbD 7) o)) = false := by
    simp only [List.cons_append, List.nil_append, List.forall_mem_cons, List.not_mem_nil, false_implies, implies_true]
    decide +kernel
  have e : ∀ n o, dec n .s16 (held.ctrl.getLsbD 7) o = dec 0#64 .s16 (held.ctrl.getLsbD 7) o := fun _ _ => rfl
  refine ⟨by decide, by decide, by decide +kernel, by decide, by decide, by decide, by decide, ?_⟩
  intro o ho
  refine ⟨(h o ho).1, fun n => ?_⟩
  rw [e]
  exact (h o ho).2
theorem witness_OnlyTargetCommandsWriteTarget :
    Instr.wf .dReset = true ∧ Instr.wf .dSetTarget = true ∧
      (after .dSetTarget { ready 1#64 with tgt := ⟨0xC041000000000000#64, 0xC02C000000000000#64⟩ }).dyn.tgtGain ≠
        (ready 1#64).dyn.tgtGain := by decide +kernel
theorem witness_ResetSatisfiesInvariant : Config.defaultBuild.Legal := by decide
/-- `nearBlock` with the beat that fills its block to come. -/
def filling : State := { nearBlock with events := [.beatA 0x4000#32] }
-- A configured state in the middle of a session satisfies the invariant, not only reset.
theorem witness_StepKeepsInvariant : Inv filling ∧ step filling = exec (.aBeat 0x4000#32) nearBlock :=
  ⟨⟨by decide, by decide, by decide, by decide, by decide, by decide, by decide⟩, rfl⟩
-- 2^53 + 1 units lie midway between two representable magnitudes.
theorem witness_RoundingIsNearestEven :
    0 < 1 ∧ roundMag 53 infMag (2 ^ 53 + 1) 1 < infMag ∧ 2 ^ 53 + 1 < infMag ∧
      (fpMag (fpPack false (roundMag 53 infMag (2 ^ 53 + 1) 1)) * 1 : Int) - (2 ^ 53 + 1 : Nat) = -1 ∧
      (fpMag (fpPack false (2 ^ 53 + 1)) * 1 : Int) - (2 ^ 53 + 1 : Nat) = 1 := by decide +kernel
theorem witness_ArithmeticIsNearest :
    fpIsFinite half = true ∧ fpIsFinite f64Ten = true ∧ fpIsFinite f64One = true ∧
      fpIsFinite (fpAdd 0#64 half f64Ten) = true ∧ fpIsFinite (fpMul 0#64 half f64Ten) = true ∧
      fpMagBits f64Ten ≠ 0 ∧ fpIsFinite (fpDiv 0#64 half f64Ten) = true := by decide +kernel
theorem witness_MathLaws : 22 ≤ 22 ∧ fpIsNaN 0x7FF8000000000000#64 = true := by decide

end Sys2Proof.Tests
end

section
/-! Rounding to nearest even (00_scope.md R10): the magnitude that a pattern stands for, and `roundMag` as the nearest
pattern. The format is a parameter: `w` fraction bits, so that binary64 (w = 52) and binary32 (w = 23) share the
rules. -/

namespace Sys2Proof.Machine

/-! ### Rounding to a natural -/

/-- `rne` gives a nearest natural multiple of `d`. -/
theorem rne_nearest {d : Nat} (hd : 0 < d) (n q : Nat) :
    ((rne n d * d : Int) - n).natAbs ≤ ((q * d : Int) - n).natAbs := by
  obtain ⟨hlow, hhigh⟩ := rne_error (n := n) hd
  generalize rne n d = r at *
  zify at *
  rcases lt_trichotomy q r with h | rfl | h
  · have : (q + 1 : Int) * d ≤ r * d := by gcongr; omega
    grind
  · rfl
  · have : (r + 1 : Int) * d ≤ q * d := by gcongr; omega
    grind

/-- Midway between two multiples of `d`, `rne` gives an even one. -/
theorem rne_even_of_midway {n d c : Nat} (hd : 0 < d) (h : 2 * n = (2 * c + 1) * d) : rne n d % 2 = 0 := by
  have hn : n = c * d + d / 2 := by grind
  have hdiv : n / d = c := by
    rw [hn, Nat.mul_comm, Nat.mul_add_div hd, Nat.div_eq_of_lt (by omega), Nat.add_zero]
  have hmod : 2 * (n % d) = d := by
    have := Nat.div_add_mod' n d
    rw [hdiv] at this
    grind
  unfold rne
  split <;> omega

/-- Of two equally near multiples of `d`, `rne` gives the even one. -/
theorem rne_even_of_tie {n d q : Nat} (hd : 0 < d)
    (htie : ((rne n d * d : Int) - n).natAbs = ((q * d : Int) - n).natAbs) (hne : q ≠ rne n d) :
    rne n d % 2 = 0 := by
  obtain ⟨c, hmid⟩ : ∃ c, 2 * n = (2 * c + 1) * d := by
    obtain ⟨hlow, hhigh⟩ := rne_error (n := n) hd
    generalize rne n d = r at *
    rcases lt_or_gt_of_ne hne with h | h
    · obtain ⟨c, rfl⟩ := Nat.exists_eq_add_of_lt h
      refine ⟨q + c, ?_⟩
      have : (q + 1) * d ≤ (q + c + 1) * d := by gcongr; omega
      zify at *
      grind
    · have : (r + 1) * d ≤ q * d := by gcongr; omega
      refine ⟨r, ?_⟩
      zify at *
      grind
  exact rne_even_of_midway hd hmid

/-- `rne` does not pass a natural bound above the ratio. -/
theorem rne_le_of_lt_mul {n d c : Nat} (hd : 0 < d) (h : n < c * d) : rne n d ≤ c := by
  obtain ⟨-, hhigh⟩ := rne_error (n := n) hd
  have : 2 * rne n d * d < (2 * c + 1) * d := by linarith
  have := Nat.lt_of_mul_lt_mul_right this
  omega

/-- `rne` does not fall under a natural bound below the ratio. -/
theorem le_rne_of_mul_le {n d c : Nat} (hd : 0 < d) (h : c * d ≤ n) : c ≤ rne n d := by
  obtain ⟨hlow, -⟩ := rne_error (n := n) hd
  have : 2 * c * d ≤ (2 * rne n d + 1) * d := by linarith
  have := Nat.le_of_mul_le_mul_right this hd
  omega

/-! ### The magnitude of a pattern -/

/-- The magnitude, in units of the smallest subnormal, of the pattern `m` with `w` fraction bits. -/
def magUnits (w m : Nat) : Nat := (m - (m / 2 ^ w - 1) * 2 ^ w) * 2 ^ (m / 2 ^ w - 1)

/-- The magnitude of a binary64 is that of its magnitude bits. -/
theorem fpMag_eq_magUnits (a : F64) : fpMag a = magUnits 52 (fpMagBits a) := by
  have h : ∀ m : Nat, m - (m / 2 ^ 52 - 1) * 2 ^ 52 = if m / 2 ^ 52 = 0 then m % 2 ^ 52 else 2 ^ 52 + m % 2 ^ 52 := by
    intro m; split <;> omega
  unfold fpMag magUnits
  rw [fpExp_eq, fpFrac_eq, h]
  split
  next hsub => rw [hsub, Nat.zero_sub, pow_zero, Nat.mul_one]
  next => rfl

/-- The pattern of q units in the last place of binade k, the carry into the next binade included. -/
theorem magUnits_binade {w k q : Nat} (hnormal : k = 0 ∨ 2 ^ w ≤ q) (hq : q ≤ 2 ^ (w + 1)) :
    magUnits w (k * 2 ^ w + q) = q * 2 ^ k := by
  have hpos := Nat.two_pow_pos w
  unfold magUnits
  rw [Nat.add_comm, Nat.add_mul_div_right _ _ hpos]
  rcases lt_or_ge q (2 ^ w) with hsub | hge
  · obtain rfl : k = 0 := by omega
    simp [Nat.div_eq_of_lt hsub]
  rcases hq.lt_or_eq with hlt | rfl
  · have hdiv : q / 2 ^ w = 1 := Nat.div_eq_of_lt_le (by omega) (by omega)
    simp [hdiv]
  · have hdiv : 2 ^ (w + 1) / 2 ^ w = 2 := by rw [pow_succ, Nat.mul_div_cancel_left _ hpos]
    have hsub : 2 ^ (w + 1) + k * 2 ^ w - (2 + k - 1) * 2 ^ w = 2 ^ w := by
      rw [show 2 + k - 1 = k + 1 by omega, Nat.succ_mul]; omega
    rw [hdiv, hsub, show 2 + k - 1 = k + 1 by omega]
    ring

/-- Every pattern is q units in the last place of some binade k. -/
theorem exists_binade (w m : Nat) :
    ∃ k q, m = k * 2 ^ w + q ∧ (k = 0 ∨ 2 ^ w ≤ q) ∧ q < 2 ^ (w + 1) := by
  have hdm := Nat.div_add_mod' m (2 ^ w)
  have hlt := Nat.mod_lt m (Nat.two_pow_pos w)
  cases hk : m / 2 ^ w with
  | zero => exact ⟨0, m, by omega, .inl rfl, by rw [hk] at hdm; omega⟩
  | succ k =>
    rw [hk, Nat.succ_mul] at hdm
    exact ⟨k, 2 ^ w + m % 2 ^ w, by omega, .inr (by omega), by omega⟩

/-- The order of the patterns is that of their magnitudes. -/
theorem magUnits_strictMono (w : Nat) : StrictMono (magUnits w) := by
  refine strictMono_nat_of_lt_succ fun m => ?_
  obtain ⟨k, q, rfl, hnormal, hq⟩ := exists_binade w m
  have hnormal' : k = 0 ∨ 2 ^ w ≤ q + 1 := by omega
  rw [Nat.add_assoc, magUnits_binade hnormal (by omega), magUnits_binade hnormal' (by omega)]
  gcongr
  omega

/-- From binade k on, every magnitude is a whole number of that binade's units in the last place. -/
theorem pow_dvd_magUnits {w k m : Nat} (h : k = 0 ∨ (k + 1) * 2 ^ w ≤ m) : 2 ^ k ∣ magUnits w m := by
  refine Dvd.dvd.mul_left (pow_dvd_pow 2 ?_) _
  rcases h with rfl | h
  · omega
  · have := (Nat.le_div_iff_mul_le (Nat.two_pow_pos w)).2 h
    omega

/-! ### Rounding to a pattern -/

/-- The binade of a ratio holds it: below its top, and from its bottom on unless it is that of the subnormals. -/
theorem binade_bounds {w n d : Nat} (hd : 0 < d) :
    n < 2 ^ (w + 1) * (d * 2 ^ binade (w + 1) n d) ∧
      (binade (w + 1) n d = 0 ∨ 2 ^ w * (d * 2 ^ binade (w + 1) n d) ≤ n) := by
  unfold binade
  split
  next hsmall => simpa using (Nat.div_lt_iff_lt_mul hd).1 hsmall
  next hbig =>
    have hne : n / d ≠ 0 := fun h => hbig (by simp [h])
    have hw : w < (n / d).log2 := (Nat.le_log2 hne).2 (by omega)
    have hlog : 2 ^ (n / d).log2 ≤ n / d := Nat.log2_self_le hne
    have hlog' : n / d < 2 ^ ((n / d).log2 + 1) := Nat.lt_log2_self
    generalize (n / d).log2 = l at *
    obtain ⟨j, rfl⟩ := Nat.exists_eq_add_of_lt hw
    rw [Nat.le_div_iff_mul_le hd] at hlog
    rw [Nat.div_lt_iff_lt_mul hd] at hlog'
    rw [show w + j + 1 - (w + 1 - 1) = j + 1 by omega]
    refine ⟨hlog'.trans_eq ?_, .inr (le_of_eq_of_le ?_ hlog)⟩ <;> ring

/-- Below infinity, `roundMag` counts the units in the last place of the ratio's binade, rounded to nearest even. -/
theorem roundMag_of_lt_inf {w inf n d : Nat} (hfin : roundMag (w + 1) inf n d < inf) :
    roundMag (w + 1) inf n d =
      binade (w + 1) n d * 2 ^ w + rne n (d * 2 ^ binade (w + 1) n d) :=
  min_eq_left ((min_lt_iff.1 hfin).resolve_right (lt_irrefl _)).le

/-- The magnitude of the rounded pattern, below infinity. -/
theorem magUnits_roundMag {w inf n d : Nat} (hd : 0 < d) (hfin : roundMag (w + 1) inf n d < inf) :
    magUnits w (roundMag (w + 1) inf n d) =
      rne n (d * 2 ^ binade (w + 1) n d) * 2 ^ binade (w + 1) n d := by
  obtain ⟨htop, hbottom⟩ := binade_bounds (w := w) (n := n) hd
  have hunit : 0 < d * 2 ^ binade (w + 1) n d := by positivity
  rw [roundMag_of_lt_inf hfin]
  exact magUnits_binade (hbottom.imp_right (le_rne_of_mul_le hunit)) (rne_le_of_lt_mul hunit htop)

/-- A pattern is a whole number of units in the last place of the ratio's binade, or it is farther than the rounded one:
it then lies under the binade, whose bottom is nearer. -/
theorem magUnits_multiple_or_farther {w inf n d : Nat} (hd : 0 < d) (hfin : roundMag (w + 1) inf n d < inf) (m : Nat) :
    (∃ q, magUnits w m = q * 2 ^ binade (w + 1) n d) ∨
      ((magUnits w (roundMag (w + 1) inf n d) * d : Int) - n).natAbs < ((magUnits w m * d : Int) - n).natAbs := by
  obtain ⟨-, hbottom⟩ := binade_bounds (w := w) (n := n) hd
  rw [magUnits_roundMag hd hfin]
  generalize binade (w + 1) n d = k at *
  by_cases hin : k = 0 ∨ (k + 1) * 2 ^ w ≤ m
  · obtain ⟨q, hq⟩ := pow_dvd_magUnits hin
    exact .inl ⟨q, by rw [hq, Nat.mul_comm]⟩
  · obtain ⟨hk, hm⟩ := not_or.1 hin
    have hbot : magUnits w (k * 2 ^ w + 2 ^ w) = 2 ^ w * 2 ^ k :=
      magUnits_binade (.inr le_rfl) (Nat.pow_le_pow_right (by decide) (by omega))
    have hunder : magUnits w m < 2 ^ w * 2 ^ k := by
      rw [← hbot, (magUnits_strictMono w).lt_iff_lt, ← Nat.succ_mul]
      exact not_le.1 hm
    have hunder' : magUnits w m * d < 2 ^ w * 2 ^ k * d := by gcongr
    have hnear := rne_nearest (d := d * 2 ^ k) (by positivity) n (2 ^ w)
    have hn := hbottom.resolve_left hk
    zify at *
    right
    grind

/-- R10: no pattern is nearer to the ratio than the rounded one. -/
theorem roundMag_nearest {w inf n d : Nat} (hd : 0 < d) (hfin : roundMag (w + 1) inf n d < inf) (m : Nat) :
    ((magUnits w (roundMag (w + 1) inf n d) * d : Int) - n).natAbs ≤ ((magUnits w m * d : Int) - n).natAbs := by
  rcases magUnits_multiple_or_farther hd hfin m with ⟨q, hq⟩ | hfar
  · have hnear := rne_nearest (d := d * 2 ^ binade (w + 1) n d) (by positivity) n q
    rw [magUnits_roundMag hd hfin, hq]
    push_cast at hnear ⊢
    convert hnear using 3 <;> ring
  · exact hfar.le

/-- R10: of two equally near patterns the rounded one is even. -/
theorem roundMag_even_of_tie {w inf n d m : Nat} (hw : 0 < w) (hd : 0 < d) (hfin : roundMag (w + 1) inf n d < inf)
    (htie : ((magUnits w (roundMag (w + 1) inf n d) * d : Int) - n).natAbs = ((magUnits w m * d : Int) - n).natAbs)
    (hne : m ≠ roundMag (w + 1) inf n d) : roundMag (w + 1) inf n d % 2 = 0 := by
  obtain ⟨q, hq⟩ := (magUnits_multiple_or_farther hd hfin m).resolve_right (by omega)
  have hround := magUnits_roundMag hd hfin
  have hqne : q ≠ rne n (d * 2 ^ binade (w + 1) n d) := by
    rintro rfl
    exact hne ((magUnits_strictMono w).injective (hq.trans hround.symm))
  have heven : rne n (d * 2 ^ binade (w + 1) n d) % 2 = 0 := by
    refine rne_even_of_tie (by positivity) ?_ hqne
    rw [hround, hq] at htie
    push_cast at htie ⊢
    convert htie using 3 <;> ring
  have hpow : 2 ∣ binade (w + 1) n d * 2 ^ w := (dvd_pow_self 2 hw.ne').mul_left _
  rw [roundMag_of_lt_inf hfin]
  omega

/-- The magnitude of a packed pattern. -/
theorem fpMag_pack (neg : Bool) {m : Nat} (h : m < 2 ^ 63) : fpMag (fpPack neg m) = magUnits 52 m := by
  rw [fpMag_eq_magUnits, fpMagBits_pack neg h]

/-- The pattern of infinity leaves the sign bit free. -/
theorem infMag_lt : infMag < 2 ^ 63 := by decide

/-- Settles O58: the rule of every format, at the 52 fraction bits of binary64. -/
theorem roundingIsNearestEven : Obligations.RoundingIsNearestEven := by
  intro n d m hd hm hfin
  rw [fpMag_pack false (hfin.trans infMag_lt), fpMag_pack false (hm.trans infMag_lt)]
  exact ⟨roundMag_nearest (w := 52) hd hfin m, roundMag_even_of_tie (w := 52) (by decide) hd hfin⟩

/-! ### The operators -/

/-- A magnitude under a sign. -/
def signed (neg : Bool) (n : Nat) : Int := if neg then -(n : Int) else n

theorem fpVal_eq_signed (a : F64) : fpVal a = signed (fpSign a) (fpMag a) := rfl

/-- The sign of a product or a quotient is the exclusive or of the signs. -/
theorem signed_mul_signed (p q : Bool) (m n : Nat) : signed p m * signed q n = signed (p != q) (m * n) := by
  cases p <;> cases q <;> simp [signed]

/-- An integer is its magnitude under its sign. -/
theorem signed_sign_natAbs (z : Int) : signed (decide (z < 0)) z.natAbs = z := by
  by_cases h : z < 0 <;> simp only [signed, h, decide_true, decide_false] <;> grind

/-- The sign of a divisor goes over to the dividend: a quotient's distance, in units of the divisor. -/
theorem natAbs_mul_signed_sub (p q : Bool) (x : Int) (m n u : Nat) :
    (x * signed q n - signed p m * u).natAbs = (x * n - signed (p != q) (m * u)).natAbs := by
  have hu : (u : Int) = signed false u := rfl
  rw [hu, signed_mul_signed, Bool.bne_false]
  cases q with
  | false => simp [signed]
  | true =>
    rw [← Int.natAbs_neg]
    congr 1
    cases p <;> simp [signed] <;> ring

/-- A common sign leaves a distance as it is. -/
theorem natAbs_signed_sub_signed (neg : Bool) (m n : Nat) :
    (signed neg m - signed neg n).natAbs = ((m : Int) - n).natAbs := by
  cases neg <;> grind [signed]

/-- The common sign gives the least distance. -/
theorem natAbs_sub_le_signed (p q : Bool) (m n : Nat) :
    ((m : Int) - n).natAbs ≤ (signed p m - signed q n).natAbs := by
  cases p <;> cases q <;> grind [signed]

/-- A rounded ratio that is finite did not overflow. -/
theorem roundMag_lt_of_fpRound_finite {neg : Bool} {n d : Nat} (hfin : fpIsFinite (fpRound neg n d) = true) :
    roundMag 53 infMag n d < infMag := by
  have hle := roundMag_le_inf 53 infMag n d
  rwa [fpIsFinite_iff, fpRound, fpMagBits_pack neg (hle.trans_lt infMag_lt)] at hfin

/-- R10: no binary64 value is nearer to a signed ratio than the rounded one. -/
theorem fpRound_nearest {neg : Bool} {n d : Nat} (hd : 0 < d) (hfin : fpIsFinite (fpRound neg n d) = true) (c : F64) :
    (fpVal (fpRound neg n d) * d - signed neg n).natAbs ≤ (fpVal c * d - signed neg n).natAbs := by
  have hround := roundMag_lt_of_fpRound_finite hfin
  have hd' : (d : Int) = signed false d := rfl
  calc (fpVal (fpRound neg n d) * d - signed neg n).natAbs
      = ((magUnits 52 (roundMag 53 infMag n d) * d : Int) - n).natAbs := by
        rw [fpVal_eq_signed, fpRound, fpSign_pack, fpMag_pack neg (hround.trans infMag_lt), hd', signed_mul_signed,
          Bool.bne_false, natAbs_signed_sub_signed, Nat.cast_mul, ← hd']
    _ ≤ ((magUnits 52 (fpMagBits c) * d : Int) - n).natAbs := roundMag_nearest (w := 52) hd hround _
    _ ≤ (fpVal c * d - signed neg n).natAbs := by
        rw [fpVal_eq_signed, fpMag_eq_magUnits, hd', signed_mul_signed, Bool.bne_false, ← hd', ← Nat.cast_mul]
        exact natAbs_sub_le_signed _ _ _ _

/-- Only a zero has no magnitude. -/
theorem fpMag_pos {a : F64} (h : fpMagBits a ≠ 0) : 0 < fpMag a := by
  rw [fpMag_eq_magUnits]
  exact (Nat.zero_le _).trans_lt (magUnits_strictMono 52 (Nat.pos_of_ne_zero h))

theorem natCast_two_pow (k : Nat) : ((2 ^ k : Nat) : Int) = 2 ^ k := Nat.cast_pow 2 k

/-- Both zeros have the value 0. -/
theorem fpVal_zero (neg : Bool) : fpVal (fpPack neg 0) = 0 := by cases neg <;> decide

/-- A finite value is neither NaN nor infinite. -/
theorem not_nan_not_inf_of_finite {a : F64} (h : fpIsFinite a = true) : fpIsNaN a = false ∧ fpIsInf a = false := by
  simpa [fpIsFinite_eq] using h

section Finite

variable {a b : F64} (ha : fpIsFinite a = true) (hb : fpIsFinite b = true) (nan : F64)

include ha hb

/-- The sum of finite values is zero, under some sign, or the exact sum rounded. -/
theorem fpAdd_of_finite :
    fpAdd nan a b =
      if fpVal a + fpVal b = 0 then fpPack (fpSign a && fpSign b) 0
      else fpRound (decide (fpVal a + fpVal b < 0)) (fpVal a + fpVal b).natAbs 1 := by
  obtain ⟨hna, hia⟩ := not_nan_not_inf_of_finite ha
  obtain ⟨hnb, hib⟩ := not_nan_not_inf_of_finite hb
  simp [fpAdd, hna, hia, hnb, hib]

/-- The product of finite values is the exact product rounded. -/
theorem fpMul_of_finite :
    fpMul nan a b = fpRound (fpSign a != fpSign b) (fpMag a * fpMag b) (2 ^ 1074) := by
  obtain ⟨hna, hia⟩ := not_nan_not_inf_of_finite ha
  obtain ⟨hnb, hib⟩ := not_nan_not_inf_of_finite hb
  simp only [fpMul, hna, hia, hnb, hib, Bool.or_false, Bool.false_eq_true, if_false]

/-- The quotient of finite values by a non-zero one is the exact quotient rounded. -/
theorem fpDiv_of_finite (hzero : fpMagBits b ≠ 0) :
    fpDiv nan a b = fpRound (fpSign a != fpSign b) (fpMag a * 2 ^ 1074) (fpMag b) := by
  obtain ⟨hna, hia⟩ := not_nan_not_inf_of_finite ha
  obtain ⟨hnb, hib⟩ := not_nan_not_inf_of_finite hb
  simp only [fpDiv, hna, hia, hnb, hib, hzero, Bool.or_false, Bool.false_eq_true, if_false]

theorem fpAdd_nearest (hfin : fpIsFinite (fpAdd nan a b) = true) (c : F64) :
    (fpVal (fpAdd nan a b) - (fpVal a + fpVal b)).natAbs ≤ (fpVal c - (fpVal a + fpVal b)).natAbs := by
  rw [fpAdd_of_finite ha hb] at hfin ⊢
  generalize fpVal a + fpVal b = z at *
  split at hfin
  next hz => simp [hz, fpVal_zero]
  next hz => simpa [hz, signed_sign_natAbs] using fpRound_nearest Nat.one_pos hfin c

theorem fpMul_nearest (hfin : fpIsFinite (fpMul nan a b) = true) (c : F64) :
    (fpVal (fpMul nan a b) * 2 ^ 1074 - fpVal a * fpVal b).natAbs ≤
      (fpVal c * 2 ^ 1074 - fpVal a * fpVal b).natAbs := by
  rw [fpMul_of_finite ha hb] at hfin ⊢
  rw [fpVal_eq_signed a, fpVal_eq_signed b, signed_mul_signed]
  rw [← natCast_two_pow]
  exact fpRound_nearest (by positivity) hfin c

theorem fpDiv_nearest (hzero : fpMagBits b ≠ 0) (hfin : fpIsFinite (fpDiv nan a b) = true) (c : F64) :
    (fpVal (fpDiv nan a b) * fpVal b - fpVal a * 2 ^ 1074).natAbs ≤
      (fpVal c * fpVal b - fpVal a * 2 ^ 1074).natAbs := by
  rw [fpDiv_of_finite ha hb nan hzero] at hfin ⊢
  rw [fpVal_eq_signed a, fpVal_eq_signed b, ← natCast_two_pow, natAbs_mul_signed_sub, natAbs_mul_signed_sub]
  exact fpRound_nearest (fpMag_pos hzero) hfin c

end Finite

/-- Settles O59: each operator rounds its exact result once. -/
theorem arithmeticIsNearest : Obligations.ArithmeticIsNearest := fun nan _ _ c ha hb _ =>
  ⟨fun hfin => fpAdd_nearest ha hb nan hfin c, fun hfin => fpMul_nearest ha hb nan hfin c,
    fun hzero hfin => fpDiv_nearest ha hb nan hzero hfin c⟩

end Sys2Proof.Machine
end

section
/-! MATH under its laws (00_scope.md R13). -/

namespace Sys2Proof.Machine

/-- A result that must be a NaN is one, whatever the free function gives. -/
@[simp] theorem fpIsNaN_mathNaN (raw : F64) : fpIsNaN (mathNaN raw) = true := by
  unfold mathNaN
  split
  next h => exact h
  next => exact fpIsNaN_quietNaN _

section NaN

variable {x : F64} (hx : fpIsNaN x = true)
include hx

theorem mathExp_nan : fpIsNaN (mathExp x) = true := by simp [mathExp, hx]

theorem mathSin_nan : fpIsNaN (mathSin x) = true := by simp [mathSin, hx]

theorem mathCos_nan : fpIsNaN (mathCos x) = true := by simp [mathCos, hx]

theorem mathLog10_nan : fpIsNaN (mathLog10 x) = true := by simp [mathLog10, hx]

theorem mathPow_nan_left (y : F64) : fpIsNaN (mathPow x y) = true := by simp [mathPow, hx]

theorem mathPow_nan_right (y : F64) : fpIsNaN (mathPow y x) = true := by simp [mathPow, hx]

end NaN

theorem mathPow_ten_zero : mathPow f64Ten f64Zero = f64One := by
  unfold mathPow
  rw [if_neg (by decide), if_pos ⟨rfl, rfl⟩]

theorem mathPow_ten_one : mathPow f64Ten f64One = f64Ten := by
  unfold mathPow
  rw [if_neg (by decide), if_neg (by decide), if_pos ⟨rfl, rfl⟩]

theorem mathExp_negInf : mathExp f64NegInf = f64Zero := by
  unfold mathExp
  rw [if_neg (by decide), if_pos rfl]

/-- The 23 powers of ten are numbers, and different ones (log 4). -/
theorem exactPowerOfTen_fpOfNat :
    ∀ k ≤ 22, fpIsNaN (fpOfNat (10 ^ k)) = false ∧ exactPowerOfTen (fpOfNat (10 ^ k)) = some k := by
  decide +kernel

theorem mathLog10_power {k : Nat} (hk : k ≤ 22) : mathLog10 (fpOfNat (10 ^ k)) = fpOfNat k := by
  obtain ⟨hnan, hpow⟩ := exactPowerOfTen_fpOfNat k hk
  simp [mathLog10, hnan, hpow]

/-- Settles O60: each law is a branch of the model's function. -/
theorem mathLaws : Obligations.MathLaws :=
  ⟨mathPow_ten_zero, mathPow_ten_one, fun _ hk => mathLog10_power hk, mathExp_negInf, fun _ y hx =>
    ⟨mathExp_nan hx, mathSin_nan hx, mathCos_nan hx, mathLog10_nan hx, mathPow_nan_left hx y, mathPow_nan_right hx y⟩⟩

end Sys2Proof.Machine
end

section
/-! What the parts of a step do, for every proof about steps: the cells that a store touches, the lengths that the filter
cascade gives, the session geometry frame by frame (41_block_energy.md R75), the agreement of A_FINALIZE's results
(42_gate_aggregate.md R84), and the gain state over a frame (44_dynamics.md R90). -/

namespace Sys2Proof.Machine

/-- A natural that fits its field is read back whole. -/
theorem toNat_ofNat_of_lt {w n : Nat} (h : n < 2 ^ w) : (BitVec.ofNat w n).toNat = n := by
  rw [BitVec.toNat_ofNat, Nat.mod_eq_of_lt h]

/-! ### The cells of block memory -/

theorem Memory.mem_of_mem_cons {m : Memory} {a : Nat} {v : Byte} {c : Host.Cell} (hc : c ∈ Memory.cons a v m) :
    c.1 = a ∨ c ∈ m := by
  unfold Memory.cons at hc
  split at hc
  next => exact .inr hc
  next =>
    obtain rfl | hc := List.mem_cons.mp hc
    · exact .inl rfl
    · exact .inr hc

/-- A one-byte write lists no new address but its own. -/
theorem Memory.mem_of_mem_setByte {m : Memory} {a : Nat} {v : Byte} {c : Host.Cell} (hc : c ∈ m.setByte a v) :
    c.1 = a ∨ c ∈ m := by
  induction m with
  | nil => exact Memory.mem_of_mem_cons hc
  | cons head m ih =>
    obtain ⟨k, u⟩ := head
    simp only [Memory.setByte] at hc
    split at hc
    next => exact Memory.mem_of_mem_cons hc
    next =>
      split at hc
      next => exact (Memory.mem_of_mem_cons hc).imp_right (List.mem_cons_of_mem _)
      next =>
        obtain rfl | hc := List.mem_cons.mp hc
        · exact .inr List.mem_cons_self
        · exact (ih hc).imp_right (List.mem_cons_of_mem _)

/-- A write of bytes lists no new address outside its range. -/
theorem Memory.mem_of_mem_setBytes (bs : List Byte) :
    ∀ {m : Memory} {a : Nat} {c : Host.Cell}, c ∈ m.setBytes a bs → (a ≤ c.1 ∧ c.1 < a + bs.length) ∨ c ∈ m := by
  induction bs with
  | nil => exact fun hc => .inr hc
  | cons b bs ih =>
    intro m a c hc
    rw [List.length_cons]
    obtain hnew | hc := ih hc
    · exact .inl (by omega)
    · obtain hhere | hold := Memory.mem_of_mem_setByte hc
      · exact .inl (by omega)
      · exact .inr hold

/-- A store of entry i lists no new address outside the entry. -/
theorem mem_of_mem_blkWrite {m : Memory} {i : Nat} {e : F64} {c : Host.Cell} (hc : c ∈ blkWrite m i e) :
    (blkAddr i ≤ c.1 ∧ c.1 < blkAddr i + 8) ∨ c ∈ m := by
  simpa only [leBytes_length] using Memory.mem_of_mem_setBytes (leBytes 8 e.toNat) hc

/-! ### The filter cascade -/

@[simp] theorem filterFrame_states_length (nan : NaNs) (k : Coeffs) (c : Nat) (fs : List FilterState) (xs : List F64) :
    (filterFrame nan k c fs xs).1.length = fs.length := by
  induction fs generalizing c xs with
  | nil => cases xs <;> rfl
  | cons f fs ih =>
    cases xs with
    | nil => rfl
    | cons x xs => simp [filterFrame, ih]

@[simp] theorem filterFrame_samples_length (nan : NaNs) (k : Coeffs) (c : Nat) (fs : List FilterState) (xs : List F64) :
    (filterFrame nan k c fs xs).2.length = min fs.length xs.length := by
  induction fs generalizing c xs with
  | nil => cases xs <;> simp [filterFrame]
  | cons f fs ih =>
    cases xs with
    | nil => simp [filterFrame]
    | cons x xs => simp [filterFrame, ih]

@[simp] theorem pushFrame_rb_length (nan : NaNs) (x : List F64) (s : State) :
    (pushFrame nan x s).ana.rb.length = s.ana.rb.length + 1 := List.length_append

/-- A frame that fills the block emits it; any other one only joins RB. -/
theorem analyzeFrame_cases (nan : NaNs) (x : List F64) (s : State) :
    (s.cfg.blockSize.toNat ≤ s.ana.rb.length + 1 ∧
        analyzeFrame nan x s = blockEmit (nan [1]) (pushFrame (nan.part 0) x s)) ∨
      (s.ana.rb.length + 1 < s.cfg.blockSize.toNat ∧ analyzeFrame nan x s = pushFrame (nan.part 0) x s) := by
  unfold analyzeFrame
  dsimp only
  rw [pushFrame_rb_length]
  by_cases hfull : s.cfg.blockSize.toNat ≤ s.ana.rb.length + 1
  · exact .inl ⟨hfull, if_pos hfull⟩
  · exact .inr ⟨Nat.lt_of_not_le hfull, if_neg hfull⟩

/-! ### The session geometry, frame by frame -/

/-- A frame that fills the block completes one more block, and the window advances by a hop. -/
theorem session_succ_of_full {b h n : Nat} (hh : 1 ≤ h) (hb : h ≤ b) (hfull : b ≤ ringAfter b h n + 1) :
    blocksAfter b h (n + 1) = blocksAfter b h n + 1 ∧ ringAfter b h (n + 1) = ringAfter b h n + 1 - h := by
  unfold ringAfter blocksAfter at *
  by_cases hn : n < b
  · obtain rfl : b = n + 1 := by simp only [hn, if_true] at hfull; omega
    simp
  · have hdm := Nat.div_add_mod (n - b) h
    have hlt := Nat.mod_lt (n - b) hh
    simp only [hn, if_false] at hfull
    obtain ⟨hdiv, hmod⟩ := (Nat.div_mod_unique (a := n + 1 - b) (d := (n - b) / h + 1) (c := 0) hh).2
      ⟨by rw [Nat.mul_add]; omega, hh⟩
    simp only [hn, show ¬ n + 1 < b by omega, if_false, hdiv, hmod, true_and]
    omega

/-- Any other frame is one more of the block that is filling. -/
theorem session_succ_of_not_full {b h n : Nat} (hh : 1 ≤ h) (hb : h ≤ b) (hpart : ringAfter b h n + 1 < b) :
    blocksAfter b h (n + 1) = blocksAfter b h n ∧ ringAfter b h (n + 1) = ringAfter b h n + 1 := by
  unfold ringAfter blocksAfter at *
  by_cases hn : n < b
  · simp only [hn, if_true] at hpart
    simp [hn, hpart]
  · have hdm := Nat.div_add_mod (n - b) h
    simp only [hn, if_false] at hpart
    obtain ⟨hdiv, hmod⟩ := (Nat.div_mod_unique (a := n + 1 - b) (d := (n - b) / h) (c := (n - b) % h + 1) hh).2
      ⟨by omega, by omega⟩
    simp only [hn, show ¬ n + 1 < b by omega, if_false, hdiv, hmod, true_and]
    omega

/-! ### The results of A_FINALIZE -/

theorem fpIsFinite_negInf : fpIsFinite f64NegInf = false := by decide

/-- The loudness register is finite exactly when the survivors are valid. -/
theorem fpIsFinite_gateResults_lufs (nan : F64) (con : Consts) (es : List F64) :
    fpIsFinite (gateResults nan con es).lufs = validLoudness nan con.lufsCal (survivors nan con.relFactor es) := by
  unfold gateResults
  cases hv : validLoudness nan con.lufsCal (survivors nan con.relFactor es) with
  | false => simp [fpIsFinite_negInf, hv]
  | true =>
    simp only [hv, if_true]
    simp only [validLoudness, Bool.and_eq_true] at hv
    exact hv.2

theorem gateResults_of_invalid {nan : F64} {con : Consts} {es : List F64}
    (hv : validLoudness nan con.lufsCal (survivors nan con.relFactor es) = false) :
    (gateResults nan con es).lufs = f64NegInf ∧ (gateResults nan con es).gated = f64Zero := by
  simp [gateResults, hv]

/-! ### The gain state over a frame -/

@[simp] theorem rampStep_tgtGain (nan : NaNs) (d : Dynamics) : (rampStep nan d).tgtGain = d.tgtGain := by
  obtain ⟨-, hr⟩ | ⟨-, hr⟩ | ⟨-, hr⟩ := rampStep_cases nan d <;> rw [hr]

@[simp] theorem rampStep_part (nan : NaNs) (d : Dynamics) : (rampStep nan d).part = d.part := by
  obtain ⟨-, hr⟩ | ⟨-, hr⟩ | ⟨-, hr⟩ := rampStep_cases nan d <;> rw [hr]

@[simp] theorem processDyn_tgtGain (nan : NaNs) (con : Consts) (x : List F64) (d : Dynamics) :
    (processDyn nan con x d).tgtGain = d.tgtGain := by simp [processDyn]

@[simp] theorem processDyn_part (nan : NaNs) (con : Consts) (x : List F64) (d : Dynamics) :
    (processDyn nan con x d).part = d.part := by simp [processDyn]

/-- With no ramp running, a frame leaves the gain at its target and starts no ramp. -/
theorem processDyn_of_settled (nan : NaNs) (con : Consts) (x : List F64) {d : Dynamics} (hd : d.remain = 0#64) :
    (processDyn nan con x d).curGain = d.tgtGain ∧ (processDyn nan con x d).remain = 0#64 := by
  simp [processDyn, rampStep, hd]

end Sys2Proof.Machine
end

section
/-! What an aligned 8-byte read returns, place by place (20_memory.md R38, R39). -/

namespace Sys2Proof.Machine

/-! ### The map at the address of each place -/

theorem mem_regTable (r : Reg) : r ∈ regTable := by cases r <;> decide

theorem idxOf_regTable_lt (r : Reg) : regTable.idxOf r < 42 := List.idxOf_lt_length_of_mem (mem_regTable r)

/-- Entry j of the register table stands at offset 8 * j (10_state.md R18). -/
theorem placeAt_regOffset (p : Config.Params) (r : Reg) : placeAt p (8 * regTable.idxOf r) = some (.reg r) := by
  have hlt := idxOf_regTable_lt r
  rw [placeAt_reg p (by omega), Nat.mul_div_cancel_left _ (by decide), List.getElem?_idxOf (mem_regTable r)]
  rfl

theorem placeAt_filter {p : Config.Params} {c k : Nat} (hlegal : p.Legal) (hc : c < p.chMax) (hk : k < 4) :
    placeAt p (0x800 + 32 * c + 8 * k) = some (.filter c k) := by
  obtain ⟨-, hchMax, -⟩ := hlegal
  have hchannel : (0x800 + 32 * c + 8 * k - filterBase) / 32 = c := by unfold filterBase; omega
  have hword : (0x800 + 32 * c + 8 * k - filterBase) % 32 / 8 = k := by unfold filterBase; omega
  unfold placeAt
  rw [hchannel, hword, if_neg (by omega), if_neg (by unfold filterBase; omega), if_pos (by omega), if_pos hc]

theorem placeAt_blk {p : Config.Params} {i : Nat} (hi : i < p.blkDepth) :
    placeAt p (0x100000 + 8 * i) = some (.blk i) := by
  have hentry : (0x100000 + 8 * i - blkBase) / 8 = i := by unfold blkBase; omega
  unfold placeAt
  rw [hentry, if_neg (by omega), if_neg (by unfold filterBase; omega), if_neg (by omega),
    if_neg (by unfold blkBase; omega), if_pos hi]

/-! ### Reads -/

/-- A read of a mapped place answers OK with the place's word and changes nothing but the read latch. -/
theorem exec_regRead_of_placeAt {s : State} {a : Nat} {pl : Place} (ha : a < 2 ^ 24) (halign : a % 8 = 0)
    (hpl : placeAt s.build a = some pl) :
    exec (.regRead (BitVec.ofNat 24 a) 8) s = .next { s with busResp := some ⟨readPlace s pl, true⟩ } := by
  have haddr : (BitVec.ofNat 24 a).toNat = a := toNat_ofNat_of_lt ha
  have hcheck : busCheck s.build (BitVec.ofNat 24 a) 8 = .ok pl :=
    (busCheck_ok_iff ..).mpr ⟨rfl, by rw [haddr]; exact halign, by rw [haddr]; exact hpl⟩
  simp only [exec, execRegRead, memRead, hcheck]
  rfl

theorem exec_regRead_reg (s : State) (r : Reg) :
    exec (.regRead (BitVec.ofNat 24 (8 * regTable.idxOf r)) 8) s = .next { s with busResp := some ⟨readReg s r, true⟩ } := by
  have hlt := idxOf_regTable_lt r
  exact exec_regRead_of_placeAt (by omega) (Nat.mul_mod_right ..) (placeAt_regOffset s.build r)

theorem exec_regRead_filter {s : State} {c k : Nat} {f : FilterState} (hlegal : s.build.Legal) (hc : c < s.build.chMax)
    (hf : s.ana.filter[c]? = some f) (hk : k < 4) :
    exec (.regRead (BitVec.ofNat 24 (0x800 + 32 * c + 8 * k)) 8) s =
      .next { s with busResp := some ⟨f.word k, true⟩ } := by
  have hplace := placeAt_filter hlegal hc hk
  obtain ⟨-, hchMax, -⟩ := hlegal
  have hread := exec_regRead_of_placeAt (by omega) (by omega) hplace
  rwa [readPlace, List.getD_eq_getElem?_getD, hf] at hread

/-! ### The fields of PARAM0 and PARAM1 -/

theorem param0Word_fields (p : Config.Params) :
    (param0Word p).extractLsb' 0 8 = BitVec.ofNat 8 p.chMax ∧ (param0Word p).extractLsb' 8 20 = BitVec.ofNat 20 p.fsMin ∧
      (param0Word p).extractLsb' 28 20 = BitVec.ofNat 20 p.fsMax ∧ (param0Word p).extractLsb' 48 16 = 0#16 := by
  unfold param0Word
  refine ⟨?_, ?_, ?_, ?_⟩ <;>
    simp (disch := decide) only [BitVec.extractLsb'_append_eq_of_add_le, BitVec.extractLsb'_append_eq_of_le,
      BitVec.extractLsb'_eq_self, Nat.sub_self, Nat.reduceSub]

theorem param1Word_fields (p : Config.Params) :
    (param1Word p).extractLsb' 0 32 = BitVec.ofNat 32 p.blkDepth ∧
      (param1Word p).extractLsb' 32 32 = BitVec.ofNat 32 p.ringDepth := by
  unfold param1Word
  constructor <;>
    simp (disch := decide) only [BitVec.extractLsb'_append_eq_right, BitVec.extractLsb'_append_eq_left]

/-- Settles O11: the rows are the register table, each register at its offset. -/
theorem registerReads : Obligations.RegisterReads := by
  refine ⟨fun p hlegal => ?_, fun s => ?_⟩
  · obtain ⟨hch, hfsMin, hfsMax, hzero⟩ := param0Word_fields p
    obtain ⟨hblk, hring⟩ := param1Word_fields p
    rw [hch, hfsMin, hfsMax, hblk, hring]
    obtain ⟨-, hchMax, -, hle, hmax, -, hdepth⟩ := hlegal
    exact ⟨toNat_ofNat_of_lt (by omega), toNat_ofNat_of_lt (by omega), toNat_ofNat_of_lt (by omega), hzero,
      toNat_ofNat_of_lt (by omega), toNat_ofNat_of_lt⟩
  · have hrows : ∀ row ∈ regTable.map fun r => (BitVec.ofNat 24 (8 * regTable.idxOf r), readReg s r),
        exec (.regRead row.1 8) s = .next { s with busResp := some ⟨row.2, true⟩ } :=
      List.forall_mem_map.mpr fun r _ => exec_regRead_reg s r
    exact hrows

/-- Settles O12: each word of a window stands at its place of the map. -/
theorem windowReads : Obligations.WindowReads := by
  refine ⟨fun s c f hlegal hc hf row hrow => ?_, fun s i hlegal hi => ?_⟩
  · have hword {k : Nat} (hk : k < 4) := exec_regRead_filter hlegal hc hf hk
    simp only [List.mem_cons, List.not_mem_nil, or_false] at hrow
    obtain rfl | rfl | rfl | rfl := hrow
    · exact hword (k := 0) (by decide)
    · exact hword (k := 1) (by decide)
    · exact hword (k := 2) (by decide)
    · exact hword (k := 3) (by decide)
  · obtain ⟨-, -, -, -, -, -, hdepth⟩ := hlegal
    exact exec_regRead_of_placeAt (by omega) (by omega) (placeAt_blk hi)

end Sys2Proof.Machine
end

section
/-! What the operations leave alone: the engines keep out of each other's state (60_exceptions.md R117), and a register
write that is no command touches neither block memory nor the target gain (45_control.md R102). -/

namespace Sys2Proof.Machine

section Frames

variable (s : State)

/-! ### The analysis engine keeps the dynamics state -/

@[simp] theorem storeBlock_dyn (e : F64) : (storeBlock e s).dyn = s.dyn := by
  obtain ⟨-, -, hrun⟩ | ⟨-, -, hrun⟩ | ⟨-, hrun⟩ := storeBlock_cases e s <;> rw [hrun]

@[simp] theorem analyzeFrame_dyn (nan : NaNs) (x : List F64) : (analyzeFrame nan x s).dyn = s.dyn := by
  obtain ⟨-, hrun⟩ | ⟨-, hrun⟩ := analyzeFrame_cases nan x s <;> rw [hrun]
  · exact storeBlock_dyn _ _
  · rfl

@[simp] theorem analysisBeat_dyn (w : Beat) : (analysisBeat w s).dyn = s.dyn := by
  obtain ⟨hrun, -⟩ | ⟨hrun, -⟩ | ⟨fmt, -, -, -, hrun⟩ := analysisBeat_cases w s <;> rw [hrun]
  · rfl
  · rfl
  · rw [State.bumpNaN_dyn]
    obtain ⟨-, hpush⟩ | ⟨-, hpush⟩ := pushSampleA_cases (s.nans.part 1) (dec (s.nans [0]) fmt (aBe s.ctrl) w) s <;>
      rw [hpush]
    exact analyzeFrame_dyn ..

@[simp] theorem sessionReset_dyn : (sessionReset s).dyn = s.dyn := by
  unfold sessionReset
  obtain ⟨-, hrun⟩ | ⟨-, hrun⟩ := whenConfigured_cases openSession s <;> rw [hrun] <;> rfl

@[simp] theorem finalize_dyn : (finalize s).dyn = s.dyn := by
  obtain ⟨-, -, hrun⟩ | ⟨-, -, hrun⟩ | ⟨-, hrun⟩ := finalize_cases s <;> rw [hrun] <;> rfl

/-! ### The dynamics engine keeps the analysis state and block memory; only D_SET_TARGET moves the target -/

theorem setTarget_frame : (setTarget s).ana = s.ana ∧ (setTarget s).mem = s.mem := by
  unfold setTarget
  obtain ⟨-, hrun⟩ | ⟨-, hrun⟩ := whenConfigured_cases publishTarget s <;> rw [hrun] <;> exact ⟨rfl, rfl⟩

/-- D_RESET has the same effect under its own opcode (R95). -/
theorem dynFlush_frame :
    (dynFlush s).ana = s.ana ∧ (dynFlush s).mem = s.mem ∧ (dynFlush s).dyn.tgtGain = s.dyn.tgtGain := by
  unfold dynFlush
  obtain ⟨-, hrun⟩ | ⟨-, hrun⟩ := whenConfigured_cases dynRestore s <;> rw [hrun] <;> exact ⟨rfl, rfl, rfl⟩

theorem playbackBeat_frame (w : Beat) :
    (playbackBeat w s).ana = s.ana ∧ (playbackBeat w s).mem = s.mem ∧
      (playbackBeat w s).dyn.tgtGain = s.dyn.tgtGain := by
  obtain ⟨-, hrun⟩ | ⟨-, -, hrun⟩ | ⟨fmt, -, -, hrun⟩ := playbackBeat_cases w s <;> rw [hrun]
  · exact ⟨rfl, rfl, rfl⟩
  · exact ⟨rfl, rfl, rfl⟩
  · rw [State.bumpNaN_ana, State.bumpNaN_mem, State.bumpNaN_dyn]
    obtain ⟨-, hpush⟩ | ⟨-, hpush⟩ :=
      pushSampleP_cases (s.nans.part 1) fmt (dec (s.nans [0]) fmt (pBe s.ctrl) w) s <;> rw [hpush]
    · exact ⟨rfl, rfl, rfl⟩
    · exact ⟨rfl, rfl, processDyn_tgtGain ..⟩

/-! ### The bus -/

theorem memRead_frame (addr : Addr) (n : Nat) :
    (memRead addr n s).ana = s.ana ∧ (memRead addr n s).mem = s.mem ∧ (memRead addr n s).dyn = s.dyn := by
  obtain ⟨pl, -, hrun⟩ | ⟨e, -, hrun⟩ := memRead_cases addr n s <;> rw [hrun] <;> exact ⟨rfl, rfl, rfl⟩

/-- No write rule but CMD's reaches the count, the entries or the target gain. -/
theorem writeReg_frame {r : Reg} (v : Word) (hr : r ≠ .cmd) :
    (writeReg r v s).ana.nblk = s.ana.nblk ∧ (writeReg r v s).mem = s.mem ∧
      (writeReg r v s).dyn.tgtGain = s.dyn.tgtGain := by
  cases r with
  | cmd => exact absurd rfl hr
  | blockSize =>
    obtain ⟨-, -, hrun⟩ | ⟨e, hrun⟩ := writeBlockSize_cases v s <;> rw [writeReg, hrun] <;> exact ⟨rfl, rfl, rfl⟩
  | hopSize =>
    obtain ⟨-, -, hrun⟩ | ⟨e, hrun⟩ := writeHopSize_cases v s <;> rw [writeReg, hrun] <;> exact ⟨rfl, rfl, rfl⟩
  | _ => exact ⟨rfl, rfl, rfl⟩

end Frames

/-! ### Command words (30_encoding.md R51, R54) -/

/-- A word is its three fields. -/
theorem fields_append (cw : Word) : rsvOf cw ++ operandsOf cw ++ opcOf cw = cw := by
  unfold rsvOf operandsOf opcOf
  rw [BitVec.extractLsb'_append_extractLsb'_eq_extractLsb' (show 32 = 8 + 24 from rfl),
    BitVec.extractLsb'_append_extractLsb'_eq_extractLsb' (show 8 = 0 + 8 from rfl)]
  exact BitVec.extractLsb'_eq_self

/-- A format Z opcode with all other bits zero is one of the six format Z words. -/
theorem isCommandWord_of_formatZ {opc : BitVec 8} {c : Command} (h : formatZ opc = some c) :
    isCommandWord (0#32 ++ 0#24 ++ opc) = true := by
  unfold formatZ at h
  split_ifs at h with h0 h1 h2 h3 h4 h5 <;> subst opc <;> decide

theorem isCommandWord_configure (operands : BitVec 24) : isCommandWord (0#32 ++ operands ++ 0x01#8) = true := by
  have hmask : (0xFFFFFFFF000000FF#64) = BitVec.allOnes 32 ++ 0#24 ++ BitVec.allOnes 8 := by decide
  have hmatch : (0#32 ++ operands ++ 0x01#8) &&& 0xFFFFFFFF000000FF#64 = (0x1#64 : Word) := by
    rw [hmask, BitVec.and_append, BitVec.and_append]
    simp
  simp [isCommandWord, hmatch]

/-- Every word that decodes matches a row of R54. -/
theorem isCommandWord_of_decodeCommand {cw : Word} {c : Command} (h : decodeCommand cw = .ok c) :
    isCommandWord cw = true := by
  rw [← fields_append cw]
  unfold decodeCommand at h
  split at h
  next hopc =>
    split at h
    next hrsv => rw [hopc, hrsv]; exact isCommandWord_configure _
    next => cases h
  next =>
    split at h
    next => cases h
    next hz =>
      split at h
      next hzero =>
        obtain ⟨hrsv, hoperands⟩ := hzero
        rw [hrsv, hoperands]
        exact isCommandWord_of_formatZ hz
      next => cases h

/-- The map gives a register at its offset only. -/
theorem eq_of_placeAt_reg {p : Config.Params} {a : Nat} {r : Reg} (halign : a % 8 = 0)
    (h : placeAt p a = some (.reg r)) : a = 8 * regTable.idxOf r := by
  by_cases ha : a < 0x150
  · rw [placeAt_reg p ha, Option.map_eq_some_iff] at h
    obtain ⟨r', hr', hreg⟩ := h
    obtain rfl := Place.reg.inj hreg
    have hindex : a / 8 = regTable.idxOf r' := by
      refine (List.getElem?_inj (l := regTable) (by show a / 8 < 42; omega) (by decide)).mp ?_
      rw [hr', List.getElem?_idxOf (mem_regTable r')]
    omega
  · unfold placeAt at h
    rw [if_neg ha] at h
    split_ifs at h <;> simp at h

/-- A plain write that reaches CMD carries a word that is no command (R55), so it only records why. -/
theorem dispatchCommand_of_wf {addr : Addr} {n : Nat} {v : Word} {s : State}
    (hwf : (Instr.regWrite addr n v).wf = true) (hcheck : busCheck s.build addr n = .ok (.reg .cmd)) :
    ∃ e, dispatchCommand v s = raiseError e s := by
  obtain ⟨hn, halign, hplace⟩ := (busCheck_ok_iff ..).mp hcheck
  have haddr : addr = cmdAddr := BitVec.eq_of_toNat_eq (eq_of_placeAt_reg halign hplace)
  obtain ⟨c, hok, -⟩ | ⟨r, -, hrun⟩ := dispatchCommand_cases v s
  · simp [Instr.wf, haddr, hn, isCommandWord_of_decodeCommand hok] at hwf
  · exact ⟨_, hrun⟩

theorem memWrite_tgtGain_of_wf {addr : Addr} {n : Nat} {v : Word} (s : State)
    (hwf : (Instr.regWrite addr n v).wf = true) : (memWrite addr n v s).dyn.tgtGain = s.dyn.tgtGain := by
  obtain ⟨r, hcheck, -, hrun⟩ | ⟨pl, -, -, hrun⟩ | ⟨e, -, hrun⟩ := memWrite_cases addr n v s <;> rw [hrun]
  · by_cases hr : r = .cmd
    · subst hr
      obtain ⟨e, hdispatch⟩ := dispatchCommand_of_wf hwf hcheck
      rw [writeReg, hdispatch, raiseError_dyn]
    · obtain ⟨-, -, htgt⟩ := writeReg_frame s v hr
      exact htgt
  · rfl
  · rfl

/-- Settles O55: every other operation keeps the target gain. -/
theorem onlyTargetCommandsWriteTarget : Obligations.OnlyTargetCommandsWriteTarget := by
  intro i s t hwf hexec hne
  cases i with
  | dSetTarget => exact .inl rfl
  | configure fs chm1 => exact .inr ⟨fs, chm1, rfl⟩
  | nop => cases hexec; exact absurd rfl hne
  | aReset => cases hexec; exact absurd (congrArg _ (sessionReset_dyn s)) hne
  | aFinalize => cases hexec; exact absurd (congrArg _ (finalize_dyn s)) hne
  | aBeat w => cases hexec; exact absurd (congrArg _ (analysisBeat_dyn s w)) hne
  | dFlush | dReset =>
    cases hexec
    obtain ⟨-, -, htgt⟩ := dynFlush_frame s
    exact absurd htgt hne
  | pBeat w =>
    cases hexec
    obtain ⟨-, -, htgt⟩ := playbackBeat_frame s w
    exact absurd htgt hne
  | regRead addr n =>
    cases hexec
    obtain ⟨-, -, hdyn⟩ := memRead_frame s addr n
    exact absurd (congrArg _ hdyn) hne
  | regWrite addr n v => cases hexec; exact absurd (memWrite_tgtGain_of_wf s hwf) hne

/-! ### Retained block energies -/

/-- What R34 and R78 allow of a step: the count returns to 0, or it does not fall and every counted entry stays. -/
def RetainsBlocks (s t : State) : Prop :=
  t.ana.nblk = 0 ∨ (s.ana.nblk ≤ t.ana.nblk ∧ ∀ i, i < s.ana.nblk → blkRead t.mem i = blkRead s.mem i)

section Retained

variable {s : State}

theorem retainsBlocks_of_eq {t : State} (hnblk : t.ana.nblk = s.ana.nblk) (hmem : t.mem = s.mem) :
    RetainsBlocks s t := .inr ⟨hnblk.ge, fun _ _ => by rw [hmem]⟩

/-- A block is stored above the counted entries. -/
theorem retainsBlocks_storeBlock (e : F64) (hwf : s.mem.wf = true) : RetainsBlocks s (storeBlock e s) := by
  obtain ⟨-, -, hrun⟩ | ⟨-, -, hrun⟩ | ⟨-, hrun⟩ := storeBlock_cases e s <;> rw [hrun]
  · exact .inr ⟨Nat.le_succ _, fun i hi => blkRead_blkWrite_other hwf (Nat.ne_of_lt hi) e⟩
  · exact retainsBlocks_of_eq rfl rfl
  · exact retainsBlocks_of_eq rfl rfl

theorem retainsBlocks_analyzeFrame (nan : NaNs) (x : List F64) (hwf : s.mem.wf = true) :
    RetainsBlocks s (analyzeFrame nan x s) := by
  obtain ⟨-, hrun⟩ | ⟨-, hrun⟩ := analyzeFrame_cases nan x s <;> rw [hrun]
  · exact retainsBlocks_storeBlock (s := pushFrame (nan.part 0) x s) _ hwf
  · exact retainsBlocks_of_eq rfl rfl

theorem retainsBlocks_analysisBeat (w : Beat) (hwf : s.mem.wf = true) : RetainsBlocks s (analysisBeat w s) := by
  obtain ⟨hrun, -⟩ | ⟨hrun, -⟩ | ⟨fmt, -, -, -, hrun⟩ := analysisBeat_cases w s <;> rw [hrun]
  · exact retainsBlocks_of_eq rfl rfl
  · exact retainsBlocks_of_eq rfl rfl
  · obtain ⟨-, hpush⟩ | ⟨-, hpush⟩ := pushSampleA_cases (s.nans.part 1) (dec (s.nans [0]) fmt (aBe s.ctrl) w) s <;>
      rw [hpush]
    · exact retainsBlocks_of_eq rfl rfl
    · exact retainsBlocks_analyzeFrame (s := { s with ana := { s.ana with part := [] } }) _ _ hwf

/-- Of the commands only CONFIGURE and A_RESET touch the count, and they empty it. -/
theorem retainsBlocks_runCommand (c : Command) : RetainsBlocks s (runCommand c s) := by
  cases c with
  | nop => exact retainsBlocks_of_eq rfl rfl
  | configure fs chm1 =>
    obtain ⟨-, hrun⟩ | ⟨e, -, hrun⟩ := configure_cases fs chm1 s <;> rw [runCommand, hrun]
    · exact .inl rfl
    · exact retainsBlocks_of_eq rfl rfl
  | aReset =>
    obtain ⟨-, hrun⟩ | ⟨-, hrun⟩ := whenConfigured_cases openSession s <;> rw [runCommand, sessionReset, hrun]
    · exact .inl rfl
    · exact retainsBlocks_of_eq rfl rfl
  | aFinalize =>
    obtain ⟨-, -, hrun⟩ | ⟨-, -, hrun⟩ | ⟨-, hrun⟩ := finalize_cases s <;> rw [runCommand, hrun] <;>
      exact retainsBlocks_of_eq rfl rfl
  | dSetTarget =>
    obtain ⟨hana, hmem⟩ := setTarget_frame s
    exact retainsBlocks_of_eq (congrArg _ hana) hmem
  | dFlush | dReset =>
    obtain ⟨hana, hmem, -⟩ := dynFlush_frame s
    exact retainsBlocks_of_eq (congrArg _ hana) hmem

theorem retainsBlocks_memWrite (addr : Addr) (n : Nat) (v : Word) : RetainsBlocks s (memWrite addr n v s) := by
  obtain ⟨r, -, -, hrun⟩ | ⟨pl, -, -, hrun⟩ | ⟨e, -, hrun⟩ := memWrite_cases addr n v s <;> rw [hrun]
  · by_cases hr : r = .cmd
    · subst hr
      obtain ⟨c, -, hdispatch⟩ | ⟨e, -, hdispatch⟩ := dispatchCommand_cases v s <;> rw [writeReg, hdispatch]
      · exact retainsBlocks_runCommand c
      · exact retainsBlocks_of_eq rfl rfl
    · obtain ⟨hnblk, hmem, -⟩ := writeReg_frame s v hr
      exact retainsBlocks_of_eq hnblk hmem
  · exact retainsBlocks_of_eq rfl rfl
  · exact retainsBlocks_of_eq rfl rfl

theorem retainsBlocks_exec {i : Instr} {t : State} (hwf : s.mem.wf = true) (hexec : exec i s = .next t) :
    RetainsBlocks s t := by
  cases i with
  | regRead addr n =>
    cases hexec
    obtain ⟨hana, hmem, -⟩ := memRead_frame s addr n
    exact retainsBlocks_of_eq (congrArg _ hana) hmem
  | regWrite addr n v => cases hexec; exact retainsBlocks_memWrite addr n v
  | aBeat w => cases hexec; exact retainsBlocks_analysisBeat w hwf
  | pBeat w =>
    cases hexec
    obtain ⟨hana, hmem, -⟩ := playbackBeat_frame s w
    exact retainsBlocks_of_eq (congrArg _ hana) hmem
  | nop => cases hexec; exact retainsBlocks_runCommand .nop
  | configure fs chm1 => cases hexec; exact retainsBlocks_runCommand (.configure fs chm1)
  | aReset => cases hexec; exact retainsBlocks_runCommand .aReset
  | aFinalize => cases hexec; exact retainsBlocks_runCommand .aFinalize
  | dSetTarget => cases hexec; exact retainsBlocks_runCommand .dSetTarget
  | dFlush => cases hexec; exact retainsBlocks_runCommand .dFlush
  | dReset => cases hexec; exact retainsBlocks_runCommand .dReset

end Retained

/-- Settles O34: an operation retains the counted entries, hardware reset empties the count, and taking a word or an idle
step touches neither. -/
theorem retainedEntriesNeverRewritten : Obligations.RetainedEntriesNeverRewritten := by
  intro s t hwf hstep
  obtain ⟨-, hrun⟩ | ⟨e, rest, i, -, -, hrun⟩ | ⟨rest, -, hrun⟩ | ⟨rest, -, hrun⟩ := step_cases s <;> rw [hrun] at hstep
  · cases hstep; exact retainsBlocks_of_eq rfl rfl
  · exact retainsBlocks_exec (s := { s with events := rest }) hwf hstep
  · cases hstep; exact retainsBlocks_of_eq rfl rfl
  · cases hstep; exact .inl rfl

end Sys2Proof.Machine
end

section
/-! The invariant of the machine: one lemma per operation, from what the operation can do (Laws/Ops) and what that does to
each clause. -/

namespace Sys2Proof.Machine

section Invariant

variable {s : State}

/-! ### What the invariant gives -/

theorem Inv.legal (h : Inv s) : s.build.Legal := by
  obtain ⟨⟨hlegal, -⟩, -⟩ := h
  exact hlegal

theorem Inv.configured (h : Inv s) (hconf : s.status.configured = true) : Configured s := by
  obtain ⟨-, -, ⟨-, hconfig⟩, -⟩ := h
  exact hconfig hconf

/-- With 1 ≤ HOP_SIZE ≤ BLOCK_SIZE, no block is empty. -/
theorem one_le_blockSize (h : Configured s) : 1 ≤ s.cfg.blockSize.toNat := by
  obtain ⟨-, -, -, -, hhop, hblock, -⟩ := h
  exact hhop.trans hblock

theorem Inv.one_le_ch (h : Inv s) (hconf : s.status.configured = true) : 1 ≤ s.cfg.ch.toNat := by
  obtain ⟨-, -, hch, -⟩ := h.configured hconf
  exact hch

theorem Inv.dyn_part_lt (h : Inv s) : s.dyn.part.length < max s.cfg.ch.toNat 1 := by
  obtain ⟨-, -, -, ⟨-, -, -, hpart⟩, -⟩ := h
  exact hpart

theorem Inv.identity (h : Inv s) : InvDynamics s := by
  obtain ⟨-, -, -, -, -, -, hdyn⟩ := h
  exact hdyn

/-- Only a configured machine has an open session. -/
theorem Inv.configured_of_open (h : Inv s) (hopen : s.status.aOpen = true) : s.status.configured = true := by
  obtain ⟨-, -, ⟨hunconf, -⟩, -⟩ := h
  by_contra hconf
  obtain ⟨-, -, -, -, hclosed, -⟩ := hunconf (by simpa using hconf)
  simp [hclosed] at hopen

/-! ### Parts of the state that the invariant reads -/

/-- Of STATUS the invariant reads the four state bits only. -/
theorem inv_with_status {st : Status} (h : Inv s) (hconf : st.configured = s.status.configured)
    (hopen : st.aOpen = s.status.aOpen) (hvalid : st.resValid = s.status.resValid)
    (htgt : st.tgtSet = s.status.tgtSet) : Inv { s with status := st } := by
  simp only [Inv, InvConfig, Unconfigured, InvSession, InvResults, InvDynamics, hconf, hopen, hvalid, htgt]
  exact h

theorem inv_raise (b : Sticky) (h : Inv s) : Inv (s.raise b) :=
  inv_with_status h (Status.raise_configured _ b) (Status.raise_aOpen _ b) (Status.raise_resValid _ b)
    (Status.raise_tgtSet _ b)

theorem inv_raiseError (e : Err) (h : Inv s) : Inv (raiseError e s) :=
  inv_with_status h (Status.raise_configured _ _) (Status.raise_aOpen _ _) (Status.raise_resValid _ _)
    (Status.raise_tgtSet _ _)

/-- A dynamics state fits when its partial frame is short and, before a target, its gain is the identity. -/
theorem inv_with_dyn {d : Dynamics} (h : Inv s) (hpart : d.part.length < max s.cfg.ch.toNat 1)
    (hgain : s.status.tgtSet = false → d.curGain = f64One ∧ d.tgtGain = f64One ∧ d.remain = 0#64) :
    Inv { s with dyn := d } := by
  obtain ⟨hregs, hmem, hcfg, ⟨hfilter, hrb, hapart, -⟩, hsess, hres, -⟩ := h
  exact ⟨hregs, hmem, hcfg, ⟨hfilter, hrb, hapart, hpart⟩, hsess, hres, hgain⟩

/-- In a configured machine one clause of the configuration is left. -/
theorem invConfig_of_configured (hconf : s.status.configured = true) (h : Configured s) : InvConfig s :=
  ⟨fun hno => absurd (hconf.symm.trans hno) (by decide), fun _ => h⟩

/-- In an open session the clause of the closed one is void. -/
theorem invSession_of_open (hopen : s.status.aOpen = true)
    (hnemit : s.ana.nemit = blocksAfter s.cfg.blockSize.toNat s.cfg.hopSize.toNat s.ana.frames)
    (hring : s.ana.rb.length = ringAfter s.cfg.blockSize.toNat s.cfg.hopSize.toNat s.ana.frames) : InvSession s :=
  ⟨fun hno => absurd (hopen.symm.trans hno) (by decide), fun _ => ⟨hnemit, hring⟩⟩

/-- Before the first frame there is no block and an empty window, whatever the sizes. -/
theorem blocksAfter_zero {b h : Nat} (hb : 1 ≤ b) : blocksAfter b h 0 = 0 := if_pos hb

theorem ringAfter_zero {b h : Nat} (hb : 1 ≤ b) : ringAfter b h 0 = 0 := if_pos hb

/-- A partial frame that one more sample does not complete stays shorter than a frame. -/
theorem length_push_lt {part : List F64} {ch : Nat} (x : F64) (hch : 1 ≤ ch) (hpart : part.length < max ch 1)
    (hne : part.length + 1 ≠ ch) : (part ++ [x]).length < max ch 1 := by
  rw [List.length_append, List.length_singleton]
  omega

theorem length_nil_lt (ch : Nat) : ([] : List F64).length < max ch 1 := lt_max_of_lt_right Nat.one_pos

/-- A fresh analysis engine has its CH_MAX filter states and no frame. -/
theorem invShape_of_fresh (hana : s.ana = Analysis.fresh s.build.chMax)
    (hpart : s.dyn.part.length < max s.cfg.ch.toNat 1) : InvShape s := by
  refine ⟨?_, ?_, ?_, hpart⟩ <;> rw [hana]
  · exact List.length_replicate
  · exact fun frame hframe => absurd hframe List.not_mem_nil
  · exact length_nil_lt _

/-- A session just opened stands before its first frame. -/
theorem invSession_of_fresh (hopen : s.status.aOpen = true) (hana : s.ana = Analysis.fresh s.build.chMax)
    (hblock : 1 ≤ s.cfg.blockSize.toNat) : InvSession s := by
  refine invSession_of_open hopen ?_ ?_ <;> rw [hana]
  · exact (blocksAfter_zero hblock).symm
  · exact (ringAfter_zero hblock).symm

/-! ### Reset and CONFIGURE -/

/-- After reset nothing is configured, no session is open, the result is invalid and both engines are fresh. -/
theorem inv_resetOf {p : Config.Params} (hp : p.Legal) : Inv (State.resetOf p) :=
  ⟨⟨hp, BitVec.zero_and, BitVec.zero_and⟩,
    ⟨rfl, fun _ hc => absurd hc List.not_mem_nil, Nat.zero_le _, le_rfl⟩,
    ⟨fun _ => ⟨rfl, rfl, rfl, rfl, rfl, rfl⟩, fun hno => absurd hno Bool.false_ne_true⟩,
    invShape_of_fresh rfl (length_nil_lt _),
    ⟨fun _ => ⟨rfl, rfl⟩, fun hno => absurd hno Bool.false_ne_true⟩,
    ⟨fpIsFinite_negInf.symm, fun _ => ⟨rfl, rfl⟩⟩,
    fun _ => ⟨rfl, rfl, rfl⟩⟩

theorem inv_hardwareReset (h : Inv s) : Inv (hardwareReset s) := inv_resetOf h.legal

/-- The sizes of an accepted rate: 10 Hz give a block of 4 and a hop of 1 already. -/
theorem one_le_hopSizeOf {fs : Nat} (hfs : 10 ≤ fs) : 1 ≤ hopSizeOf fs := by
  unfold hopSizeOf blockSizeOf; omega

theorem hopSizeOf_le_blockSizeOf (fs : Nat) : hopSizeOf fs ≤ blockSizeOf fs := Nat.div_le_self _ _

theorem blockSizeOf_le_self {fs : Nat} (hfs : 1 ≤ fs) : blockSizeOf fs ≤ fs := by
  unfold blockSizeOf; omega

/-- The operands that CONFIGURE accepts give register values within the size relations. -/
theorem configured_of_configError_none {fs ch : Nat} (hlegal : s.build.Legal) (hch : 1 ≤ ch)
    (hok : configError s.build fs ch = none) : Configured (applyConfig fs ch s) := by
  obtain ⟨hmin, hmax, hchMax, hring⟩ := configError_none hok
  have hhop : 1 ≤ hopSizeOf fs := one_le_hopSizeOf (by omega)
  have hblock := hopSizeOf_le_blockSizeOf fs
  have hsize : blockSizeOf fs ≤ fs := blockSizeOf_le_self (by omega)
  simp only [Configured, applyConfig]
  rw [toNat_ofNat_of_lt (n := fs) (by omega), toNat_ofNat_of_lt (n := ch) (by omega),
    toNat_ofNat_of_lt (n := hopSizeOf fs) (by omega), toNat_ofNat_of_lt (n := blockSizeOf fs) (by omega)]
  exact ⟨hmin, hmax, hch, hchMax, hhop, hblock, hring⟩

theorem inv_applyConfig {fs ch : Nat} (h : Inv s) (hch : 1 ≤ ch) (hok : configError s.build fs ch = none) :
    Inv (applyConfig fs ch s) := by
  have hconfig := configured_of_configError_none h.legal hch hok
  obtain ⟨hregs, ⟨hwf, hwin, -, -⟩, -, -, -, hres, -⟩ := h
  have happlied : Inv { applyConfig fs ch s with
      status := { s.status with aOpen := true, tgtSet := false, configured := true } } :=
    ⟨hregs, ⟨hwf, hwin, Nat.zero_le _, le_rfl⟩, invConfig_of_configured rfl hconfig,
      invShape_of_fresh rfl (length_nil_lt _), invSession_of_fresh rfl rfl (one_le_blockSize hconfig), hres,
      fun _ => ⟨rfl, rfl, rfl⟩⟩
  exact inv_with_status happlied rfl rfl (Status.raiseIf_resValid ..) rfl

theorem inv_configure (fs : BitVec 20) (chm1 : BitVec 4) (h : Inv s) : Inv (configure fs chm1 s) := by
  obtain ⟨hok, hrun⟩ | ⟨e, -, hrun⟩ := configure_cases fs chm1 s <;> rw [hrun]
  · exact inv_applyConfig h (Nat.succ_pos _) hok
  · exact inv_raiseError e h

/-! ### The analysis engine -/

/-- BLOCK_EMIT's window step alone: the block is counted and the window advances by a hop (41_block_energy.md R74). -/
def advanceWindow (s : State) : State :=
  { s with ana := { s.ana with nemit := s.ana.nemit + 1, rb := s.ana.rb.drop s.cfg.hopSize.toNat } }

/-- Keeping a block stores it inside the window of block memory. -/
theorem inv_keepBlock (e : F64) (h : Inv s) (hdepth : s.ana.nblk < s.build.blkDepth)
    (hemit : s.ana.nblk < s.ana.nemit) :
    Inv { s with ana := { s.ana with nblk := s.ana.nblk + 1 }, mem := blkWrite s.mem s.ana.nblk e } := by
  obtain ⟨hregs, ⟨hwf, hwin, -, -⟩, hcfg, hshape, hsess, hres, hdyn⟩ := h
  refine ⟨hregs, ⟨wf_blkWrite _ e hwf, fun c hc => ?_, hdepth, hemit⟩, hcfg, hshape, hsess, hres, hdyn⟩
  obtain hnew | hold := mem_of_mem_blkWrite hc
  · unfold blkAddr at hnew
    dsimp only
    omega
  · exact hwin c hold

/-- BLOCK_EMIT keeps the invariant when its window step does: whatever the gate says of the block. -/
theorem inv_storeBlock (e : F64) (hemit : s.ana.nblk ≤ s.ana.nemit) (h : Inv (advanceWindow s)) :
    Inv (storeBlock e s) := by
  obtain ⟨-, hdepth, hstore⟩ | ⟨-, -, hstore⟩ | ⟨-, hstore⟩ := storeBlock_cases e s <;> rw [hstore]
  · exact inv_keepBlock e h hdepth (Nat.lt_succ_of_le hemit)
  · exact inv_raise .blkOvf h
  · exact h

/-- A whole frame of an open session: RB, A_FRAMES and A_NEMIT stay in step. -/
theorem inv_analyzeFrame (nan : NaNs) {x : List F64} (h : Inv s) (hopen : s.status.aOpen = true)
    (hx : x.length = s.cfg.ch.toNat) : Inv (analyzeFrame nan x s) := by
  obtain ⟨-, -, -, hchMax, hhop, hblock, -⟩ := h.configured (h.configured_of_open hopen)
  obtain ⟨hregs, ⟨hwf, hwin, hdepth, hemit⟩, hcfg, ⟨hfilter, hrb, hparts⟩, ⟨-, hgeom⟩, hres, hdyn⟩ := h
  obtain ⟨hnemit, hring⟩ := hgeom hopen
  have hshape : InvShape (pushFrame (nan.part 0) x s) := by
    refine ⟨(filterFrame_states_length ..).trans hfilter, fun frame hframe => ?_, hparts⟩
    obtain hold | hnew := List.mem_append.mp hframe
    · exact hrb frame hold
    · obtain rfl := List.mem_singleton.mp hnew
      rw [filterFrame_samples_length, hfilter, hx]
      exact Nat.min_eq_right hchMax
  obtain ⟨hfull, hrun⟩ | ⟨hpart, hrun⟩ := analyzeFrame_cases nan x s <;> rw [hrun]
  · obtain ⟨hblocks, hleft⟩ := session_succ_of_full hhop hblock (hring ▸ hfull)
    obtain ⟨hfilter', hrb', hparts'⟩ := hshape
    refine inv_storeBlock _ hemit ⟨hregs, ⟨hwf, hwin, hdepth, Nat.le_succ_of_le hemit⟩, hcfg,
      ⟨hfilter', fun frame hframe => hrb' frame (List.mem_of_mem_drop hframe), hparts'⟩,
      invSession_of_open hopen ?_ ?_, hres, hdyn⟩
    · exact (congrArg (· + 1) hnemit).trans hblocks.symm
    · rw [advanceWindow, List.length_drop, pushFrame_rb_length, hring]
      exact hleft.symm
  · obtain ⟨hblocks, hleft⟩ := session_succ_of_not_full hhop hblock (hring ▸ hpart)
    refine ⟨hregs, ⟨hwf, hwin, hdepth, hemit⟩, hcfg, hshape, invSession_of_open hopen ?_ ?_, hres, hdyn⟩
    · exact hnemit.trans hblocks.symm
    · rw [pushFrame_rb_length, hring]
      exact hleft.symm

theorem inv_pushSampleA (nan : NaNs) (x : F64) (h : Inv s) (hopen : s.status.aOpen = true) :
    Inv (pushSampleA nan x s) := by
  have hch : 1 ≤ s.cfg.ch.toNat := h.one_le_ch (h.configured_of_open hopen)
  obtain ⟨hregs, hmem, hcfg, ⟨hfilter, hrb, hpart, hppart⟩, hsess, hres, hdyn⟩ := h
  obtain ⟨-, hgeom⟩ := hsess
  obtain ⟨hnemit, hring⟩ := hgeom hopen
  obtain ⟨hlen, hrun⟩ | ⟨hlen, hrun⟩ := pushSampleA_cases nan x s <;> rw [hrun]
  · exact ⟨hregs, hmem, hcfg, ⟨hfilter, hrb, length_push_lt x hch hpart hlen, hppart⟩,
      invSession_of_open hopen hnemit hring, hres, hdyn⟩
  · refine inv_analyzeFrame nan ?_ hopen (by rw [List.length_append]; exact hlen)
    exact ⟨hregs, hmem, hcfg, ⟨hfilter, hrb, length_nil_lt _, hppart⟩,
      invSession_of_open hopen hnemit hring, hres, hdyn⟩

theorem inv_analysisBeat (w : Beat) (h : Inv s) : Inv (analysisBeat w s) := by
  obtain ⟨hrun, -⟩ | ⟨hrun, -⟩ | ⟨fmt, -, hopen, -, hrun⟩ := analysisBeat_cases w s <;> rw [hrun]
  · exact inv_raise .aDrop h
  · exact inv_raise .unsup h
  · exact inv_pushSampleA _ _ h hopen

theorem inv_openSession (h : Inv s) (hconf : s.status.configured = true) : Inv (openSession s) := by
  have hconfig := h.configured hconf
  obtain ⟨hregs, ⟨hwf, hwin, -, -⟩, -, ⟨-, -, -, hppart⟩, -, hres, hdyn⟩ := h
  have hopened : Inv { s with status := { s.status with aOpen := true }, ana := Analysis.fresh s.build.chMax } :=
    ⟨hregs, ⟨hwf, hwin, Nat.zero_le _, le_rfl⟩, invConfig_of_configured hconf hconfig, invShape_of_fresh rfl hppart,
      invSession_of_fresh rfl rfl (one_le_blockSize hconfig), hres, hdyn⟩
  exact inv_with_status hopened (Status.raiseIf_configured ..) rfl (Status.raiseIf_resValid ..)
    (Status.raiseIf_tgtSet ..)

theorem inv_closeSession (h : Inv s) (hconf : s.status.configured = true) : Inv (closeSession s) := by
  have hconfig := h.configured hconf
  obtain ⟨hregs, hmem, -, ⟨hfilter, -, -, hppart⟩, -, -, hdyn⟩ := h
  have hclosed : Inv
      { closeSession s with status := { s.status with resValid := (closeSession s).status.resValid, aOpen := false } } :=
    ⟨hregs, hmem, invConfig_of_configured hconf hconfig,
      ⟨hfilter, fun frame hframe => absurd hframe List.not_mem_nil, length_nil_lt _, hppart⟩,
      ⟨fun _ => ⟨rfl, rfl⟩, fun hno => absurd hno Bool.false_ne_true⟩,
      ⟨(fpIsFinite_gateResults_lufs ..).symm, fun hinvalid => gateResults_of_invalid hinvalid⟩, hdyn⟩
  refine inv_with_status hclosed ?_ rfl rfl ?_ <;> simp

theorem inv_whenConfigured {f : State → State} (h : Inv s) (hf : s.status.configured = true → Inv (f s)) :
    Inv (whenConfigured f s) := by
  obtain ⟨hconf, hrun⟩ | ⟨-, hrun⟩ := whenConfigured_cases f s <;> rw [hrun]
  · exact hf hconf
  · exact inv_raiseError .notConfigured h

theorem inv_finalize (h : Inv s) : Inv (finalize s) := by
  obtain ⟨hconf, -, hrun⟩ | ⟨-, -, hrun⟩ | ⟨-, hrun⟩ := finalize_cases s <;> rw [hrun]
  · exact inv_closeSession h hconf
  · exact inv_raiseError .sessionClosed h
  · exact inv_raiseError .notConfigured h

/-! ### The dynamics engine -/

theorem inv_publishTarget (h : Inv s) (hconf : s.status.configured = true) : Inv (publishTarget s) := by
  obtain ⟨hregs, hmem, ⟨-, hcfg⟩, hshape, hsess, hres, -⟩ := h
  exact ⟨hregs, hmem, ⟨fun hno => by simp [publishTarget, hconf] at hno, fun _ => hcfg hconf⟩, hshape, hsess, hres,
    fun hno => by simp [publishTarget] at hno⟩

theorem inv_dynRestore (h : Inv s) : Inv (dynRestore s) := by
  have hrestored : Inv { s with dyn := (dynRestore s).dyn } := by
    refine inv_with_dyn h (length_nil_lt _) fun hno => ?_
    obtain ⟨-, htgt, -⟩ := h.identity hno
    exact ⟨rfl, htgt, by simp [dynRestore, hno]⟩
  exact inv_with_status hrestored (Status.raiseIf_configured ..) (Status.raiseIf_aOpen ..)
    (Status.raiseIf_resValid ..) (Status.raiseIf_tgtSet ..)

theorem inv_processFrame (nan : NaNs) (fmt : SampleFormat) (x : List F64) (h : Inv s) :
    Inv (processFrame nan fmt x s) := by
  refine inv_with_dyn (d := processDyn nan s.con x s.dyn) h (by rw [processDyn_part]; exact h.dyn_part_lt) fun hno => ?_
  obtain ⟨-, htgt, hremain⟩ := h.identity hno
  obtain ⟨hcur, hremain'⟩ := processDyn_of_settled nan s.con x hremain
  exact ⟨hcur.trans htgt, (processDyn_tgtGain ..).trans htgt, hremain'⟩

theorem inv_pushSampleP (nan : NaNs) (fmt : SampleFormat) (x : F64) (h : Inv s) (hconf : s.status.configured = true) :
    Inv (pushSampleP nan fmt x s) := by
  obtain ⟨hlen, hrun⟩ | ⟨-, hrun⟩ := pushSampleP_cases nan fmt x s <;> rw [hrun]
  · exact inv_with_dyn h (length_push_lt x (h.one_le_ch hconf) h.dyn_part_lt hlen) h.identity
  · exact inv_processFrame nan fmt _ (inv_with_dyn h (length_nil_lt _) h.identity)

theorem inv_playbackBeat (w : Beat) (h : Inv s) : Inv (playbackBeat w s) := by
  obtain ⟨-, hrun⟩ | ⟨-, -, hrun⟩ | ⟨fmt, hconf, -, hrun⟩ := playbackBeat_cases w s <;> rw [hrun]
  · exact inv_raise .pPass h
  · exact inv_raise .unsup h
  · exact inv_pushSampleP _ fmt _ h hconf

/-! ### Commands and register writes -/

theorem inv_runCommand (c : Command) (h : Inv s) : Inv (runCommand c s) := by
  cases c with
  | nop => exact h
  | configure fs chm1 => exact inv_configure fs chm1 h
  | aReset => exact inv_whenConfigured h (inv_openSession h)
  | aFinalize => exact inv_finalize h
  | dSetTarget => exact inv_whenConfigured h (inv_publishTarget h)
  | dFlush => exact inv_whenConfigured h fun _ => inv_dynRestore h
  | dReset => exact inv_whenConfigured h fun _ => inv_dynRestore h

theorem inv_dispatchCommand (cw : Word) (h : Inv s) : Inv (dispatchCommand cw s) := by
  obtain ⟨c, -, hrun⟩ | ⟨r, -, hrun⟩ := dispatchCommand_cases cw s <;> rw [hrun]
  · exact inv_runCommand c h
  · exact inv_raiseError _ h

theorem masked_masked (v mask : Word) : v &&& mask &&& mask = v &&& mask := by
  rw [BitVec.and_assoc, BitVec.and_self]

theorem inv_writeCtrl (v : Word) (h : Inv s) : Inv (writeCtrl v s) := by
  obtain ⟨⟨hlegal, -, hirq⟩, hmem, hcfg, ⟨hfilter, hrb, -, -⟩, ⟨hclosed, hopen⟩, hres, hdyn⟩ := h
  refine inv_with_status (s := { s with
      ana := { s.ana with part := [] }, dyn := { s.dyn with part := [] }, ctrl := v &&& 0xFF#64 })
    ⟨⟨hlegal, ?_, hirq⟩, hmem, hcfg, ⟨hfilter, hrb, ?_, ?_⟩, ⟨fun hno => ⟨(hclosed hno).1, rfl⟩, hopen⟩, hres, hdyn⟩
    (Status.raiseIf_configured ..) (Status.raiseIf_aOpen ..) (Status.raiseIf_resValid ..) (Status.raiseIf_tgtSet ..)
  · exact masked_masked v 0xFF#64
  · exact length_nil_lt _
  · exact length_nil_lt _

/-- New sizes within their relations fit a session that is closed or has no frame yet. -/
theorem inv_with_sizes {b h : Word} (hinv : Inv s) (hidle : sizeBusy s = none) (hhop : 1 ≤ h.toNat)
    (hblock : h.toNat ≤ b.toNat) (hring : b.toNat * s.cfg.ch.toNat ≤ s.build.ringDepth) :
    Inv { s with cfg := { s.cfg with blockSize := b, hopSize := h } } := by
  obtain ⟨hconf, hempty⟩ := (sizeBusy_none_iff s).mp hidle
  obtain ⟨hfsMin, hfsMax, hch, hchMax, hhop', hblock', -⟩ := hinv.configured hconf
  obtain ⟨hregs, hmem, -, hshape, ⟨hclosed, hgeom⟩, hres, hdyn⟩ := hinv
  refine ⟨hregs, hmem, invConfig_of_configured hconf ⟨hfsMin, hfsMax, hch, hchMax, hhop, hblock, hring⟩, hshape,
    ⟨hclosed, fun hopen => ?_⟩, hres, hdyn⟩
  obtain ⟨hframes, -⟩ := hempty hopen
  obtain ⟨hnemit, hlen⟩ := hgeom hopen
  rw [hframes, blocksAfter_zero (hhop'.trans hblock')] at hnemit
  rw [hframes, ringAfter_zero (hhop'.trans hblock')] at hlen
  dsimp only
  rw [hnemit, hlen, hframes, blocksAfter_zero (hhop.trans hblock), ringAfter_zero (hhop.trans hblock)]
  exact ⟨rfl, rfl⟩

theorem configured_of_sizeBusy_none (hidle : sizeBusy s = none) : s.status.configured = true :=
  ((sizeBusy_none_iff s).mp hidle).1

theorem inv_writeBlockSize (v : Word) (h : Inv s) : Inv (writeBlockSize v s) := by
  obtain ⟨hidle, hgood, hrun⟩ | ⟨e, hrun⟩ := writeBlockSize_cases v s <;> rw [hrun]
  · obtain ⟨-, -, -, -, hhop, -⟩ := h.configured (configured_of_sizeBusy_none hidle)
    simp only [blockSizeBad, not_or, not_lt] at hgood
    obtain ⟨-, hblock, hring⟩ := hgood
    exact inv_with_sizes h hidle hhop hblock hring
  · exact inv_raiseError e h

theorem inv_writeHopSize (v : Word) (h : Inv s) : Inv (writeHopSize v s) := by
  obtain ⟨hidle, hgood, hrun⟩ | ⟨e, hrun⟩ := writeHopSize_cases v s <;> rw [hrun]
  · obtain ⟨-, -, -, -, -, -, hring⟩ := h.configured (configured_of_sizeBusy_none hidle)
    simp only [hopSizeBad, not_or, not_lt] at hgood
    obtain ⟨hhop, hblock⟩ := hgood
    exact inv_with_sizes h hidle hhop hblock hring
  · exact inv_raiseError e h

theorem inv_writeIrqEn (v : Word) (h : Inv s) : Inv { s with irqEn := v &&& irqMask } := by
  obtain ⟨⟨hlegal, hctrl, -⟩, hrest⟩ := h
  exact ⟨⟨hlegal, hctrl, masked_masked v irqMask⟩, hrest⟩

theorem inv_writeReg (r : Reg) (v : Word) (h : Inv s) : Inv (writeReg r v s) := by
  cases r with
  | ctrl => exact inv_writeCtrl v h
  | irqEn => exact inv_writeIrqEn v h
  | status => exact inv_with_status h rfl rfl rfl rfl
  | cmd => exact inv_dispatchCommand v h
  | blockSize => exact inv_writeBlockSize v h
  | hopSize => exact inv_writeHopSize v h
  | rampFrames | hpAlpha | bqB0 | bqB1 | bqB2 | bqA1 | bqA2 | absThr | relFactor | lufsCal | limThr | atkCoef
  | relCoef | minGainDb | maxGainDb | tgtMeas | tgtRef => exact h
  | _ => exact inv_raiseError .busReadonly h

/-! ### Every step -/

theorem inv_memRead (addr : Addr) (n : Nat) (h : Inv s) : Inv (memRead addr n s) := by
  obtain ⟨pl, -, hrun⟩ | ⟨e, -, hrun⟩ := memRead_cases addr n s <;> rw [hrun]
  · exact h
  · exact inv_raiseError e h

theorem inv_memWrite (addr : Addr) (n : Nat) (v : Word) (h : Inv s) : Inv (memWrite addr n v s) := by
  obtain ⟨r, -, -, hrun⟩ | ⟨pl, -, -, hrun⟩ | ⟨e, -, hrun⟩ := memWrite_cases addr n v s <;> rw [hrun]
  · exact inv_writeReg r v h
  · exact inv_raiseError .busReadonly h
  · exact inv_raiseError e h

/-- Every operation of the table keeps the invariant. -/
theorem inv_exec {i : Instr} {t : State} (h : Inv s) (hexec : exec i s = .next t) : Inv t := by
  cases i with
  | regRead addr n => cases hexec; exact inv_memRead addr n h
  | regWrite addr n v => cases hexec; exact inv_memWrite addr n v h
  | aBeat w => cases hexec; exact inv_analysisBeat w h
  | pBeat w => cases hexec; exact inv_playbackBeat w h
  | nop => cases hexec; exact inv_runCommand .nop h
  | configure fs chm1 => cases hexec; exact inv_runCommand (.configure fs chm1) h
  | aReset => cases hexec; exact inv_runCommand .aReset h
  | aFinalize => cases hexec; exact inv_runCommand .aFinalize h
  | dSetTarget => cases hexec; exact inv_runCommand .dSetTarget h
  | dFlush => cases hexec; exact inv_runCommand .dFlush h
  | dReset => cases hexec; exact inv_runCommand .dReset h

end Invariant

/-- Settles O57: one lemma per operation, and the two events of no row. -/
theorem stepKeepsInvariant : Obligations.StepKeepsInvariant := by
  intro s t h hstep
  obtain ⟨-, hrun⟩ | ⟨e, rest, i, -, -, hrun⟩ | ⟨rest, -, hrun⟩ | ⟨rest, -, hrun⟩ := step_cases s <;> rw [hrun] at hstep
  · cases hstep; exact h
  · exact inv_exec (s := { s with events := rest }) h hstep
  · cases hstep; exact h
  · cases hstep; exact inv_hardwareReset (s := { s with events := rest }) h

end Sys2Proof.Machine
end

section
/-! What the bus refuses to write (20_memory.md R40), and which rule serves the host's next event (20_memory.md R45,
R46; 60_exceptions.md R119). -/

namespace Sys2Proof.Machine

/-! ### Read-only places -/

/-- A place whose write rule is BUS_READONLY: either window, and every register of access RO (20_memory.md R40). -/
def Place.ReadOnly (pl : Place) : Prop := ∀ r, pl = .reg r → r.access = .ro

theorem Place.readOnly_reg {r : Reg} (h : r.access = .ro) : (Place.reg r).ReadOnly := by
  rintro _ ⟨⟩
  exact h

theorem Place.readOnly_filter (c k : Nat) : (Place.filter c k).ReadOnly := nofun

theorem Place.readOnly_blk (i : Nat) : (Place.blk i).ReadOnly := nofun

/-- An aligned 8-byte write to a read-only place passes the bus checks and records BUS_READONLY. -/
theorem exec_regWrite_of_readOnly {s : State} {addr : Addr} {pl : Place} (v : Word) (halign : addr.toNat % 8 = 0)
    (hpl : placeAt s.build addr.toNat = some pl) (hro : pl.ReadOnly) :
    exec (.regWrite addr 8 v) s = .next (raiseError .busReadonly s) := by
  have hcheck : busCheck s.build addr 8 = .ok pl := (busCheck_ok_iff ..).mpr ⟨rfl, halign, hpl⟩
  have hwrite : memWrite addr 8 v s = raiseError .busReadonly s := by
    obtain ⟨r, hreg, hrw, -⟩ | ⟨-, -, -, hrun⟩ | ⟨e, herr, -⟩ := memWrite_cases addr 8 v s
    · exact absurd (hro r (Except.ok.inj (hcheck.symm.trans hreg))) hrw
    · exact hrun
    · exact nomatch hcheck.symm.trans herr
  exact congrArg _ hwrite

/-- Settles O15: the nineteen offsets are those of the table's RO registers, and an aligned address inside a window is
that of one of its words. -/
theorem readOnlyWrites : Obligations.ReadOnlyWrites := by
  rintro s addr v hlegal halign (hreg | ⟨hlo, hhi⟩ | ⟨hlo, hhi⟩)
  · have hoffset : addr.toNat ∈ (regTable.filter (·.access = .ro)).map (8 * regTable.idxOf ·) := hreg
    obtain ⟨r, hr, haddr⟩ := List.mem_map.mp hoffset
    have hro : r.access = .ro := of_decide_eq_true (List.mem_filter.mp hr).2
    exact exec_regWrite_of_readOnly v halign (haddr ▸ placeAt_regOffset s.build r) (Place.readOnly_reg hro)
  · obtain ⟨c, k, hk, haddr⟩ : ∃ c k, k < 4 ∧ addr.toNat = 0x800 + 32 * c + 8 * k :=
      ⟨(addr.toNat - 0x800) / 32, (addr.toNat - 0x800) % 32 / 8, by omega, by omega⟩
    exact exec_regWrite_of_readOnly v halign (haddr ▸ placeAt_filter hlegal (by omega) hk) (Place.readOnly_filter c k)
  · obtain ⟨i, haddr⟩ : ∃ i, addr.toNat = 0x100000 + 8 * i := ⟨(addr.toNat - 0x100000) / 8, by omega⟩
    exact exec_regWrite_of_readOnly v halign (haddr ▸ placeAt_blk (by omega)) (Place.readOnly_blk i)

/-! ### The step, by the host's next event -/

section Events

variable {s : State} {rest : List HostEvent}

theorem step_of_idle (h : s.events = []) : step s = .next s := by
  rw [step, h]

theorem step_of_decode {e : HostEvent} {i : Instr} (h : s.events = e :: rest) (hdecode : decode e = .ok i) :
    step s = exec i { s with events := rest } := by
  simp only [step, h, hdecode]

theorem step_of_take (h : s.events = .take :: rest) : step s = .next (takeWord { s with events := rest }) := by
  rw [step, h]
  rfl

theorem takeWord_of_cons {w : Beat} {ws : List Beat} (h : s.pout = w :: ws) :
    takeWord s = { s with taken := some w, pout := ws } := by
  rw [takeWord, h]
  rfl

end Events

/-- Settles O5: the equation of the step at an event of the table. -/
theorem stepRunsDecodedOperation : Obligations.StepRunsDecodedOperation := fun _ _ _ _ => step_of_decode

/-- Settles O6: the equations of the step at no event and at a take. -/
theorem idleAndTake : Obligations.IdleAndTake :=
  ⟨fun _ => step_of_idle, fun s rest _ _ hevents hpout => by
    rw [step_of_take hevents, takeWord_of_cons (s := { s with events := rest }) hpout]⟩

end Sys2Proof.Machine
end

section
/-! The decoder of command words accepts the rows of R54 (30_encoding.md R54, R55). -/

namespace Sys2Proof.Machine

/-- The mask of CONFIGURE covers OPC and RSV whole, so its row fixes both fields. -/
theorem opcOf_rsvOf_of_configure_row {cw : Word} (h : cw &&& 0xFFFFFFFF000000FF#64 = 0x0000000000000001#64) :
    opcOf cw = 0x01#8 ∧ rsvOf cw = 0#32 := by
  have hopc : opcOf (cw &&& 0xFFFFFFFF000000FF#64) = opcOf cw := by
    rw [opcOf, BitVec.extractLsb'_and]
    exact BitVec.and_allOnes
  have hrsv : rsvOf (cw &&& 0xFFFFFFFF000000FF#64) = rsvOf cw := by
    rw [rsvOf, BitVec.extractLsb'_and]
    exact BitVec.and_allOnes
  rw [← hopc, ← hrsv, h]
  decide

/-- Every word that matches a row of R54 decodes. -/
theorem decodeCommand_of_isCommandWord {cw : Word} (h : isCommandWord cw = true) : ∃ c, decodeCommand cw = .ok c := by
  simp only [isCommandWord, Bool.or_eq_true, beq_iff_eq] at h
  obtain (((((rfl | hconf) | rfl) | rfl) | rfl) | rfl) | rfl := h
  · exact ⟨.nop, by decide⟩
  · obtain ⟨hopc, hrsv⟩ := opcOf_rsvOf_of_configure_row hconf
    exact ⟨.configure (fsOf cw) (chm1Of cw), by simp [decodeCommand, hopc, hrsv]⟩
  · exact ⟨.aReset, by decide⟩
  · exact ⟨.aFinalize, by decide⟩
  · exact ⟨.dSetTarget, by decide⟩
  · exact ⟨.dFlush, by decide⟩
  · exact ⟨.dReset, by decide⟩

/-- Settles O3: the decoder accepts the words of `isCommandWord`, which are six full words and the masked row of
CONFIGURE. -/
theorem commandWordsAreTheTable : Obligations.CommandWordsAreTheTable := by
  intro cw
  have haccepts : (∃ c, decodeCommand cw = .ok c) ↔ isCommandWord cw = true :=
    ⟨fun ⟨_, hdecode⟩ => isCommandWord_of_decodeCommand hdecode, decodeCommand_of_isCommandWord⟩
  have hfull : cw &&& 0xFFFFFFFFFFFFFFFF#64 = cw := BitVec.and_allOnes
  rw [haccepts]
  simp [isCommandWord, hfull, or_assoc]

end Sys2Proof.Machine
end

section
/-! Samples (30_encoding.md R56 to R60): a ratio that is a representable magnitude rounds to it, so decoding is exact
and encoding gives back what was decoded. -/

namespace Sys2Proof.Machine

/-! ### Exact rounding -/

/-- The binade of q units in the last place of binade k is k. -/
theorem binade_of_ulps {w k q d : Nat} (hd : 0 < d) (hnormal : k = 0 ∨ 2 ^ w ≤ q) (hq : q < 2 ^ (w + 1)) :
    binade (w + 1) (q * 2 ^ k * d) d = k := by
  unfold binade
  rw [Nat.mul_div_cancel _ hd]
  split
  next hsmall =>
    obtain hk | hw := hnormal
    · exact hk.symm
    · by_contra hk
      have : 2 ^ w * 2 ^ 1 ≤ q * 2 ^ k := Nat.mul_le_mul hw (Nat.pow_le_pow_right (by decide) (by omega))
      exact absurd hsmall (not_lt.2 this)
  next hbig =>
    have hw : 2 ^ w ≤ q := hnormal.resolve_left (by rintro rfl; omega)
    have hpos : q * 2 ^ k ≠ 0 := by rintro h; simp [h] at hbig
    have hlog : (q * 2 ^ k).log2 = w + k := by
      rw [Nat.log2_eq_iff hpos, show w + k + 1 = (w + 1) + k by omega, pow_add, pow_add 2 (w + 1)]
      exact ⟨Nat.mul_le_mul_right _ hw, Nat.mul_lt_mul_of_pos_right hq (Nat.two_pow_pos k)⟩
    omega

/-- The magnitude of a pattern rounds to that pattern. -/
theorem roundMag_magUnits {w d : Nat} (hd : 0 < d) (inf m : Nat) :
    roundMag (w + 1) inf (magUnits w m * d) d = min m inf := by
  obtain ⟨k, q, rfl, hnormal, hq⟩ := exists_binade w m
  rw [magUnits_binade hnormal hq.le, roundMag, binade_of_ulps hd hnormal hq, Nat.mul_assoc, Nat.mul_comm (2 ^ k) d,
    rne_mul_right (by positivity), Nat.add_sub_cancel]

/-- A number of at most w + 1 significant bits is the magnitude of a pattern. -/
theorem exists_magUnits_eq {w q : Nat} (k : Nat) (hq : q < 2 ^ (w + 1)) :
    ∃ m < (k + 2) * 2 ^ w, magUnits w m = q * 2 ^ k := by
  induction k generalizing q with
  | zero => exact ⟨q, by rw [Nat.zero_add, Nat.mul_comm, ← pow_succ]; exact hq,
      by simpa using magUnits_binade (k := 0) (.inl rfl) hq.le⟩
  | succ k ih =>
    rcases lt_or_ge q (2 ^ w) with hsmall | hnormal
    · obtain ⟨m, hm, hunits⟩ := ih (q := q * 2) (by rw [pow_succ]; omega)
      exact ⟨m, hm.trans_le (Nat.mul_le_mul_right _ (by omega)), by rw [hunits]; ring⟩
    · exact ⟨(k + 1) * 2 ^ w + q, by rw [pow_succ] at hq; linarith, magUnits_binade (.inr hnormal) hq.le⟩

/-- A ratio of at most 53 significant bits, below the overflow threshold, is rounded to itself. -/
theorem fpRound_exact {n d q k : Nat} (neg : Bool) (hd : 0 < d) (hq : q < 2 ^ 53) (hk : k ≤ 2045)
    (hn : n = q * 2 ^ k * d) :
    fpIsFinite (fpRound neg n d) = true ∧ fpSign (fpRound neg n d) = neg ∧ fpMag (fpRound neg n d) = q * 2 ^ k := by
  obtain ⟨m, hm, hunits⟩ := exists_magUnits_eq (w := 52) k hq
  have hinf : m < infMag := hm.trans_le (Nat.mul_le_mul_right _ (by omega))
  have hround : fpRound neg n d = fpPack neg m := by
    rw [fpRound, hn, ← hunits, roundMag_magUnits (w := 52) hd, min_eq_left hinf.le]
  rw [hround, fpIsFinite_iff, fpMagBits_pack neg (hinf.trans infMag_lt), fpMag_pack neg (hinf.trans infMag_lt)]
  exact ⟨hinf, fpSign_pack neg m, hunits⟩

/-! ### Containers -/

theorem SampleFormat.bytes_pos (fmt : SampleFormat) : 0 < fmt.bytes := by cases fmt <;> decide

theorem SampleFormat.bytes_le_four (fmt : SampleFormat) : fmt.bytes ≤ 4 := by cases fmt <;> decide

@[simp] theorem length_byteOrder (be : Bool) (bs : List Byte) : (byteOrder be bs).length = bs.length := by
  cases be <;> simp [byteOrder]

/-- Reversing the bytes twice restores them. -/
@[simp] theorem byteOrder_byteOrder (be : Bool) (bs : List Byte) : byteOrder be (byteOrder be bs) = bs := by
  cases be <;> simp [byteOrder]

theorem two_pow_eight_mul (n : Nat) : 2 ^ (8 * n) = 256 ^ n := Nat.pow_mul 2 8 n

theorem rawSample_lt (fmt : SampleFormat) (be : Bool) (w : Beat) : rawSample fmt be w < 256 ^ fmt.bytes := by
  simpa [rawSample, leBytes_length] using leNat_lt (byteOrder be (leBytes fmt.bytes w.toNat))

/-- Little-endian raw bits are the low n bytes of the beat. -/
theorem rawSample_littleEndian {fmt : SampleFormat} {N : Nat} (w : Beat) (hN : N = 8 * fmt.bytes) :
    rawSample fmt false w = (w.extractLsb' 0 N).toNat := by
  subst hN
  rw [BitVec.extractLsb'_toNat, Nat.shiftRight_zero, two_pow_eight_mul]
  exact leNat_leBytes fmt.bytes w.toNat

theorem rawSample_littleEndian_s32 (w : Beat) : rawSample .s32 false w = w.toNat :=
  (rawSample_littleEndian (N := 32) w rfl).trans (congrArg _ BitVec.extractLsb'_eq_self)

/-- R57: placing the raw bits of a beat gives back the beat, if its unused bytes are zero. -/
theorem placeSample_rawSample {fmt : SampleFormat} {w : Beat} (be : Bool) (hw : w.toNat < 256 ^ fmt.bytes) :
    placeSample fmt be (rawSample fmt be w) = w := by
  have hbytes : leBytes fmt.bytes (rawSample fmt be w) = byteOrder be (leBytes fmt.bytes w.toNat) := by
    simpa [rawSample, leBytes_length] using leBytes_leNat (byteOrder be (leBytes fmt.bytes w.toNat))
  rw [placeSample, hbytes, byteOrder_byteOrder, leNat_leBytes, Nat.mod_eq_of_lt hw, BitVec.ofNat_toNat,
    BitVec.setWidth_eq]

/-- The bytes of a beat, in stream order. -/
theorem leBytes_beat (w : Beat) :
    leBytes 4 w.toNat = [w.extractLsb' 0 8, w.extractLsb' 8 8, w.extractLsb' 16 8, w.extractLsb' 24 8] := by
  simp [leBytes, BitVec.extractLsb', Nat.shiftRight_eq_div_pow, Nat.div_div_eq_div_mul]

theorem toNat_append_byte {n : Nat} (x : BitVec n) (b : Byte) : (x ++ b).toNat = b.toNat + 256 * x.toNat := by
  rw [BitVec.toNat_append, ← Nat.shiftLeft_add_eq_or_of_lt b.isLt, Nat.shiftLeft_eq]
  omega

/-- Big-endian raw bits are the beat's bytes with the first one on top. -/
theorem rawSample_bigEndian (w : Beat) :
    rawSample .s16 true w = (w.extractLsb' 0 8 ++ w.extractLsb' 8 8).toNat ∧
      rawSample .s24 true w = (w.extractLsb' 0 8 ++ w.extractLsb' 8 8 ++ w.extractLsb' 16 8).toNat ∧
      rawSample .s32 true w =
        (w.extractLsb' 0 8 ++ w.extractLsb' 8 8 ++ w.extractLsb' 16 8 ++ w.extractLsb' 24 8).toNat := by
  have h4 := leBytes_beat w
  have h3 : leBytes 3 w.toNat = [w.extractLsb' 0 8, w.extractLsb' 8 8, w.extractLsb' 16 8] := congrArg (List.take 3) h4
  have h2 : leBytes 2 w.toNat = [w.extractLsb' 0 8, w.extractLsb' 8 8] := congrArg (List.take 2) h4
  simp [rawSample, SampleFormat.bytes, byteOrder, h2, h3, h4, leNat, toNat_append_byte]

/-! ### Integer samples -/

theorem dec_int {fmt : SampleFormat} (hint : fmt ≠ .f32) (nan : F64) (be : Bool) (w : Beat) :
    dec nan fmt be w = decInt fmt.bytes (rawSample fmt be w) := by
  cases fmt with
  | f32 => exact absurd rfl hint
  | s16 | s24 | s32 => rfl

theorem enc_int {fmt : SampleFormat} (hint : fmt ≠ .f32) (be : Bool) (v : F64) :
    enc fmt be v = placeSample fmt be (encInt fmt.bytes v) := by
  cases fmt with
  | f32 => exact absurd rfl hint
  | s16 | s24 | s32 => rfl

theorem two_mul_fullScale {n : Nat} (hn : 0 < n) : 2 * fullScale n = 256 ^ n := by
  rw [fullScale, ← pow_succ', show 8 * n - 1 + 1 = 8 * n by omega, two_pow_eight_mul]

/-- The two's complement integer of a bit vector is that of its raw bits. -/
theorem signedRaw_toNat {n N : Nat} (hN : N = 8 * n) (x : BitVec N) : signedRaw n x.toNat = x.toInt := by
  subst hN
  rw [signedRaw, BitVec.toInt_eq_toNat_cond, two_pow_eight_mul]

section IntegerSample

variable {n r : Nat} (hn : 0 < n) (hr : r < 256 ^ n)

include hn hr

theorem signedRaw_bounds : -(fullScale n : Int) ≤ signedRaw n r ∧ signedRaw n r < fullScale n := by
  have := two_mul_fullScale hn
  unfold signedRaw
  split <;> omega

/-- R58: the integer code is exact as a binary64. -/
theorem decInt_exact (hn4 : n ≤ 4) :
    fpIsFinite (decInt n r) = true ∧ fpSign (decInt n r) = decide (signedRaw n r < 0) ∧
      fpMag (decInt n r) = (signedRaw n r).natAbs * 2 ^ (1074 - (8 * n - 1)) := by
  obtain ⟨hlow, hhigh⟩ := signedRaw_bounds hn hr
  have hfull : fullScale n ≤ 2 ^ 31 := Nat.pow_le_pow_right (by decide) (by omega)
  have hpow : 2 ^ 1074 = 2 ^ (1074 - (8 * n - 1)) * fullScale n := by
    rw [fullScale, ← pow_add, show 1074 - (8 * n - 1) + (8 * n - 1) = 1074 by omega]
  exact fpRound_exact _ (Nat.two_pow_pos _) (by omega) (by omega) (by rw [hpow, Nat.mul_assoc])

/-- The magnitude of an integer sample, scaled to full scale, is that of its code. -/
theorem fpMag_decInt_mul_fullScale (hn4 : n ≤ 4) :
    fpMag (decInt n r) * 2 ^ (8 * n - 1) = (signedRaw n r).natAbs * 2 ^ 1074 := by
  obtain ⟨-, -, hmag⟩ := decInt_exact hn hr hn4
  rw [hmag, Nat.mul_assoc, ← pow_add, show 1074 - (8 * n - 1) + (8 * n - 1) = 1074 by omega]

/-- The value of an integer sample, scaled to full scale, is its code. -/
theorem fpVal_decInt_mul_fullScale (hn4 : n ≤ 4) :
    fpVal (decInt n r) * 2 ^ (8 * n - 1) = signedRaw n r * 2 ^ 1074 := by
  obtain ⟨-, hsign, -⟩ := decInt_exact hn hr hn4
  have hpow : ∀ k : Nat, (2 : Int) ^ k = signed false (2 ^ k) := fun k => (natCast_two_pow k).symm
  conv_rhs => rw [← signed_sign_natAbs (signedRaw n r)]
  rw [fpVal_eq_signed, hsign, hpow, hpow, signed_mul_signed, signed_mul_signed, fpMag_decInt_mul_fullScale hn hr hn4]

/-- R60: the product with full scale is the code, which needs no rounding. -/
theorem fpRneInt_decInt (hn4 : n ≤ 4) : fpRneInt (decInt n r) (8 * n - 1) = signedRaw n r := by
  obtain ⟨-, hsign, -⟩ := decInt_exact hn hr hn4
  have hcode : fpRneInt (decInt n r) (8 * n - 1) = signed (decide (signedRaw n r < 0)) (signedRaw n r).natAbs := by
    rw [fpRneInt, fpMag_decInt_mul_fullScale hn hr hn4, rne_mul_right (Nat.two_pow_pos _), hsign, signed]
  rw [hcode, signed_sign_natAbs]

/-- R60: the encoder gives back the raw bits of an integer sample; no code reaches the saturation. -/
theorem encInt_decInt (hn4 : n ≤ 4) : encInt n (decInt n r) = r := by
  obtain ⟨-, hhigh⟩ := signedRaw_bounds hn hr
  have hmod : signedRaw n r % (256 ^ n : Nat) = r := by
    unfold signedRaw
    split
    · exact Int.emod_eq_of_lt (by omega) (by omega)
    · rw [Int.sub_emod_right]
      exact Int.emod_eq_of_lt (by omega) (by omega)
  rw [encInt, fpRneInt_decInt hn hr hn4, if_neg (by omega), hmod, Int.toNat_natCast]

end IntegerSample

/-- R58 for a beat whose raw bits are the bit vectors `little` and `big`, one for each byte order. -/
theorem dec_int_exact {fmt : SampleFormat} {w : Beat} {N : Nat} {little big : BitVec N} (hint : fmt ≠ .f32)
    (hN : N = 8 * fmt.bytes) (hlittle : rawSample fmt false w = little.toNat) (hbig : rawSample fmt true w = big.toNat)
    (nan : F64) (be : Bool) :
    fpIsFinite (dec nan fmt be w) = true ∧
      fpVal (dec nan fmt be w) * 2 ^ (N - 1) = (if be then big.toInt else little.toInt) * 2 ^ 1074 := by
  have hlt := rawSample_lt fmt be w
  have hcode : (if be then big.toInt else little.toInt) = signedRaw fmt.bytes (rawSample fmt be w) := by
    cases be with
    | false => exact hlittle ▸ (signedRaw_toNat hN little).symm
    | true => exact hbig ▸ (signedRaw_toNat hN big).symm
  obtain ⟨hfin, -⟩ := decInt_exact fmt.bytes_pos hlt fmt.bytes_le_four
  rw [dec_int hint, hcode, hN]
  exact ⟨hfin, fpVal_decInt_mul_fullScale fmt.bytes_pos hlt fmt.bytes_le_four⟩

/-! ### Binary32 samples -/

theorem f32Exp_eq_iff (u : F32) (e : BitVec 8) : f32Exp u = e.toNat ↔ u.extractLsb' 23 8 = e := by
  rw [← BitVec.toNat_inj, BitVec.extractLsb'_toNat, Nat.shiftRight_eq_div_pow, f32Exp]

theorem f32Exp_eq (u : F32) : f32Exp u = (u.extractLsb' 23 8).toNat := (f32Exp_eq_iff u _).2 rfl

theorem f32Frac_eq (u : F32) : f32Frac u = (u.extractLsb' 0 23).toNat := by
  rw [BitVec.extractLsb'_toNat, Nat.shiftRight_zero, f32Frac]

/-- The magnitude of a finite binary32 is that of the bits below its sign. -/
theorem f32Mag_eq_magUnits (u : F32) : f32Mag u = magUnits 23 (u.toNat % 2 ^ 31) := by
  have hexp : f32Exp u = u.toNat % 2 ^ 31 / 2 ^ 23 := by unfold f32Exp; omega
  have hfrac : f32Frac u = u.toNat % 2 ^ 31 % 2 ^ 23 := by unfold f32Frac; omega
  rw [f32Mag, magUnits, hexp, hfrac]
  generalize u.toNat % 2 ^ 31 = m
  split
  next hsub => rw [hsub, Nat.zero_sub, pow_zero, Nat.mul_one]; omega
  next hnormal => congr 1; omega

section Binary32

variable {nan : F64} {u : F32}

/-- R11: a finite binary32 is exact as a binary64. -/
theorem fpOfF32_exact (hexp : f32Exp u ≠ 255) :
    fpIsFinite (fpOfF32 nan u) = true ∧ fpSign (fpOfF32 nan u) = u.getLsbD 31 ∧
      fpMag (fpOfF32 nan u) = f32Mag u * 2 ^ 925 := by
  have hfrac : f32Frac u < 2 ^ 23 := Nat.mod_lt _ (by decide)
  have hexp' : f32Exp u < 2 ^ 8 := Nat.mod_lt _ (by decide)
  obtain ⟨q, k, hq, hk, hmag⟩ : ∃ q k, q < 2 ^ 53 ∧ k ≤ 2045 ∧ f32Mag u * 2 ^ 925 = q * 2 ^ k := by
    unfold f32Mag
    split
    · exact ⟨f32Frac u, 925, by omega, by omega, rfl⟩
    · exact ⟨2 ^ 23 + f32Frac u, f32Exp u - 1 + 925, by omega, by omega, by rw [pow_add, Nat.mul_assoc]⟩
  rw [fpOfF32, if_neg hexp, hmag]
  exact fpRound_exact _ Nat.one_pos hq hk (Nat.mul_one _).symm

theorem fpOfF32_inf (hexp : f32Exp u = 255) (hfrac : f32Frac u = 0) :
    fpOfF32 nan u = if u.getLsbD 31 then 0xFFF0000000000000#64 else 0x7FF0000000000000#64 := by
  rw [fpOfF32, if_pos hexp, if_pos hfrac]
  cases u.getLsbD 31 <;> decide

/-- R11: a subnormal binary32 counts units of 2^-149. -/
theorem fpOfF32_subnormal (hexp : u.extractLsb' 23 8 = 0x00#8) :
    fpIsFinite (fpOfF32 nan u) = true ∧ fpSign (fpOfF32 nan u) = u.getLsbD 31 ∧
      fpMag (fpOfF32 nan u) = (u.extractLsb' 0 23).toNat * 2 ^ 925 := by
  have hzero : f32Exp u = 0 := (f32Exp_eq_iff u 0x00#8).2 hexp
  have hmag : f32Mag u = (u.extractLsb' 0 23).toNat := by rw [f32Mag, if_pos hzero, f32Frac_eq]
  rw [← hmag]
  exact fpOfF32_exact (by omega)

/-- R11: a normal binary32 has the hidden bit above its fraction. -/
theorem fpOfF32_normal (hsub : u.extractLsb' 23 8 ≠ 0x00#8) (hinf : u.extractLsb' 23 8 ≠ 0xFF#8) :
    fpIsFinite (fpOfF32 nan u) = true ∧ fpSign (fpOfF32 nan u) = u.getLsbD 31 ∧
      fpMag (fpOfF32 nan u) =
        (2 ^ 23 + (u.extractLsb' 0 23).toNat) * 2 ^ ((u.extractLsb' 23 8).toNat - 1) * 2 ^ 925 := by
  have hzero : f32Exp u ≠ 0 := (f32Exp_eq_iff u 0x00#8).not.2 hsub
  have hmag : f32Mag u = (2 ^ 23 + (u.extractLsb' 0 23).toNat) * 2 ^ ((u.extractLsb' 23 8).toNat - 1) := by
    rw [f32Mag, if_neg hzero, f32Frac_eq, f32Exp_eq]
  rw [← hmag]
  exact fpOfF32_exact ((f32Exp_eq_iff u 0xFF#8).not.2 hinf)

/-- R11: a NaN stays a NaN, a quiet one with its own fraction. -/
theorem fpIsNaN_fpOfF32 (hnan : fpIsNaN nan = true) (hexp : f32Exp u = 255) (hfrac : f32Frac u ≠ 0) :
    fpIsNaN (fpOfF32 nan u) = true := by
  have hlt : f32Frac u < 2 ^ 23 := Nat.mod_lt _ (by decide)
  rw [fpOfF32, if_pos hexp, if_neg hfrac]
  split
  · rw [fpIsNaN_iff, fpMagBits_pack _ (by unfold infMag; omega)]
    omega
  · exact hnan

/-- Only a finite binary32 decodes to a finite value. -/
theorem f32Exp_ne_of_finite (hnan : fpIsNaN nan = true) (hfin : fpIsFinite (fpOfF32 nan u) = true) :
    f32Exp u ≠ 255 := by
  intro hexp
  by_cases hfrac : f32Frac u = 0
  · rw [fpOfF32_inf hexp hfrac] at hfin
    cases hsign : u.getLsbD 31 <;> rw [hsign] at hfin <;> exact absurd hfin (by decide)
  · exact Bool.false_ne_true ((not_nan_not_inf_of_finite hfin).1.symm.trans (fpIsNaN_fpOfF32 hnan hexp hfrac))

/-- A binary32 is its sign and the bits below it. -/
theorem sign_append_bits (u : F32) : BitVec.ofBool (u.getLsbD 31) ++ BitVec.ofNat 31 (u.toNat % 2 ^ 31) = u := by
  apply BitVec.eq_of_getLsbD_eq
  intro i hi
  rw [BitVec.getLsbD_append]
  by_cases h : i < 31
  · simp [h, BitVec.getLsbD, -Nat.reducePow, Nat.testBit_mod_two_pow]
  · obtain rfl : i = 31 := by omega
    simp

/-- R11: narrowing gives back every finite binary32. -/
theorem fpToF32_fpOfF32 (hexp : f32Exp u ≠ 255) : fpToF32 (fpOfF32 nan u) = u := by
  obtain ⟨hfin, hsign, hmag⟩ := fpOfF32_exact (nan := nan) hexp
  obtain ⟨-, hinf⟩ := not_nan_not_inf_of_finite hfin
  have hbits : u.toNat % 2 ^ 31 ≤ infMag32 := by unfold f32Exp at hexp; unfold infMag32; omega
  have hround : roundMag 24 infMag32 (f32Mag u * 2 ^ 925) (2 ^ 925) = u.toNat % 2 ^ 31 := by
    rw [f32Mag_eq_magUnits, roundMag_magUnits (w := 23) (Nat.two_pow_pos _), min_eq_left hbits]
  rw [fpToF32, hsign, hinf, if_neg Bool.false_ne_true, hmag, hround, sign_append_bits]

end Binary32

/-- The raw bits of a binary32 beat are those of an S32 beat, as a bit vector. -/
theorem dec_f32 (nan : F64) (be : Bool) (w : Beat) :
    dec nan .f32 be w =
      fpOfF32 nan (if be then w.extractLsb' 0 8 ++ w.extractLsb' 8 8 ++ w.extractLsb' 16 8 ++ w.extractLsb' 24 8
        else w) := by
  have hdec : dec nan .f32 be w = fpOfF32 nan (BitVec.ofNat 32 (rawSample .s32 be w)) := rfl
  obtain ⟨-, -, hbig⟩ := rawSample_bigEndian w
  rw [hdec]
  cases be with
  | false => rw [rawSample_littleEndian_s32, BitVec.ofNat_toNat, BitVec.setWidth_eq]; rfl
  | true => rw [hbig, BitVec.ofNat_toNat, BitVec.setWidth_eq]; rfl

/-- Settles O51: the codes by evaluation, then the exactness of each format at the raw bits of the beat. -/
theorem integerDecodeIsExact : Obligations.IntegerDecodeIsExact := by
  refine ⟨by decide, fun nan w be => ?_, fun nan w u be hnan hu => ?_⟩
  · obtain ⟨hbig16, hbig24, hbig32⟩ := rawSample_bigEndian w
    simp only [List.forall_mem_cons, List.not_mem_nil, false_implies, implies_true, and_true]
    exact ⟨dec_int_exact (fmt := .s16) (by decide) rfl (rawSample_littleEndian w rfl) hbig16 nan be,
      dec_int_exact (fmt := .s24) (by decide) rfl (rawSample_littleEndian w rfl) hbig24 nan be,
      dec_int_exact (fmt := .s32) (by decide) rfl (rawSample_littleEndian_s32 w) hbig32 nan be⟩
  · rw [dec_f32, ← hu]
    have hexp := f32Exp_eq_iff u 0xFF#8
    have hfrac : u.extractLsb' 0 23 = 0#23 ↔ f32Frac u = 0 := by rw [f32Frac_eq, ← BitVec.toNat_inj]; rfl
    exact ⟨fpOfF32_subnormal, fpOfF32_normal, fun hmax hzero => fpOfF32_inf (hexp.2 hmax) (hfrac.1 hzero),
      fun hmax hne => fpIsNaN_fpOfF32 hnan (hexp.2 hmax) (hfrac.not.1 hne)⟩

/-- A value in [-1, 1] is finite. -/
theorem fpIsFinite_of_unit {v : F64} (hlow : fpLe f64NegOne v = true) (hhigh : fpLe v f64One = true) :
    fpIsFinite v = true := by
  have hone : fpKey f64One = 1023 * 2 ^ 52 := by decide
  have hnegOne : fpKey f64NegOne = -(1023 * 2 ^ 52) := by decide
  simp only [fpLe, Bool.and_eq_true, decide_eq_true_eq, hone, hnegOne] at hlow hhigh
  rw [fpIsFinite_iff]
  have habs : (fpKey v).natAbs = fpMagBits v := by unfold fpKey; split <;> omega
  unfold infMag
  omega

/-- Settles O52: the raw bits come back from the value, and the beat from the raw bits. -/
theorem sampleRoundTrip : Obligations.SampleRoundTrip := by
  intro nan fmt be w hnan hw hlow hhigh
  by_cases hfmt : fmt = .f32
  · subst hfmt
    have hexp := f32Exp_ne_of_finite hnan (fpIsFinite_of_unit hlow hhigh)
    have hraw : (fpToF32 (dec nan .f32 be w)).toNat = rawSample .f32 be w := by
      rw [dec, fpToF32_fpOfF32 hexp]
      exact Nat.mod_eq_of_lt (rawSample_lt .f32 be w)
    exact (congrArg _ hraw).trans (placeSample_rawSample be hw)
  · rw [enc_int hfmt, dec_int hfmt, encInt_decInt fmt.bytes_pos (rawSample_lt fmt be w) fmt.bytes_le_four,
      placeSample_rawSample be hw]

end Sys2Proof.Machine
end

section
/-! The A port and its filter cascade (40_kweight.md): what becomes of a beat, what the cascade gives each channel, and
the coefficients that CONFIGURE derives. -/

namespace Sys2Proof.Machine

/-- The free NaNs of an event are NaNs (log 3). -/
@[simp] theorem fpIsNaN_nans (s : State) (path : List Nat) : fpIsNaN (s.nans path) = true := fpIsNaN_quietNaN _

/-! ### The cascade, channel by channel (R64 to R67) -/

section Cascade

variable (nan : NaNs) (k : Coeffs)

/-- A channel with a sample goes through both stages with its own history and its own supply of NaNs. -/
theorem filterFrame_getElem? {f : FilterState} {x : F64} :
    ∀ {fs : List FilterState} {xs : List F64} {i : Nat} (c : Nat), fs[i]? = some f → xs[i]? = some x →
      (filterFrame nan k c fs xs).1[i]? = some (filterSample (nan.part (c + i)) k f x).1 ∧
        (filterFrame nan k c fs xs).2[i]? = some (filterSample (nan.part (c + i)) k f x).2
  | [], _, _, _, hf, _ => by simp at hf
  | _ :: _, [], _, _, _, hx => by simp at hx
  | _ :: _, _ :: _, 0, c, hf, hx => by
    obtain rfl := Option.some.inj hf
    obtain rfl := Option.some.inj hx
    exact ⟨rfl, rfl⟩
  | _ :: _, _ :: _, i + 1, c, hf, hx => by
    have hplace : c + (i + 1) = c + 1 + i := by omega
    rw [hplace]
    exact filterFrame_getElem? (c + 1) hf hx

/-- A channel without a sample keeps its history. -/
theorem filterFrame_states_getElem?_of_le :
    ∀ {fs : List FilterState} {xs : List F64} {i : Nat} (c : Nat), xs.length ≤ i →
      (filterFrame nan k c fs xs).1[i]? = fs[i]?
  | [], [], _, _, _ => rfl
  | [], _ :: _, _, _, _ => rfl
  | _ :: _, [], _, _, _ => rfl
  | _ :: _, _ :: _, _ + 1, c, h => filterFrame_states_getElem?_of_le (c + 1) (Nat.le_of_succ_le_succ h)

end Cascade

/-- Settles O32: both frames give channel c the same sample through the same stages. -/
theorem channelsAreIndependent : Obligations.ChannelsAreIndependent := by
  intro nan k fs gs xs ys c f x hf hg hx hy
  obtain ⟨hstate, hsample⟩ := filterFrame_getElem? nan k 0 hf hx
  obtain ⟨hstate', hsample'⟩ := filterFrame_getElem? nan k 0 hg hy
  exact ⟨hstate.trans hstate'.symm, hsample.trans hsample'.symm, ⟨_, _, hstate, hsample⟩,
    fun _ hc' _ => filterFrame_states_getElem?_of_le nan k 0 hc'⟩

/-! ### A beat of the A port (R63) -/

/-- The unsupported format codes are those with bit 2 set (30_encoding.md R56). -/
theorem sampleFormat_eq_none_iff (code : BitVec 3) : sampleFormat code = none ↔ code.getLsbD 2 = true := by
  revert code
  decide

theorem aFmt_unsupported_iff (ctrl : Word) : sampleFormat (aFmt ctrl) = none ↔ ctrl.getLsbD 2 = true := by
  simp [sampleFormat_eq_none_iff, aFmt]

section Beat

variable {s : State} {w : Beat} {fmt : SampleFormat}

theorem exec_aBeat_of_unconfigured (hconf : s.status.configured = false) :
    exec (.aBeat w) s = .next (s.raise .aDrop) := by
  simp [exec, execABeat, analysisBeat, hconf]

theorem exec_aBeat_of_unsupported (hconf : s.status.configured = true) (hfmt : sampleFormat (aFmt s.ctrl) = none) :
    exec (.aBeat w) s = .next (s.raise .unsup) := by
  simp [exec, execABeat, analysisBeat, hconf, hfmt]

theorem exec_aBeat_of_closed (hconf : s.status.configured = true) (hfmt : sampleFormat (aFmt s.ctrl) = some fmt)
    (hopen : s.status.aOpen = false) : exec (.aBeat w) s = .next (s.raise .aDrop) := by
  simp [exec, execABeat, analysisBeat, hconf, hfmt, hopen]

theorem exec_aBeat_of_taken (hconf : s.status.configured = true) (hopen : s.status.aOpen = true)
    (hfmt : sampleFormat (aFmt s.ctrl) = some fmt) :
    exec (.aBeat w) s =
      .next (pushSampleA (s.nans.part 1) (dec (s.nans [0]) fmt (aBe s.ctrl) w) s).bumpNaN := by
  simp [exec, execABeat, analysisBeat, hconf, hfmt, hopen]

end Beat

/-- Settles O31: the three ways a beat is dropped, in the order of R63's tests. -/
theorem aBeatDropped : Obligations.ABeatDropped := by
  refine fun s w => ⟨exec_aBeat_of_unconfigured, fun hconf hbit => ?_, fun hconf hbit hclosed => ?_⟩
  · exact exec_aBeat_of_unsupported hconf ((aFmt_unsupported_iff s.ctrl).2 hbit)
  · have hsome : sampleFormat (aFmt s.ctrl) ≠ none := by
      rw [Ne, aFmt_unsupported_iff, hbit]
      exact Bool.false_ne_true
    obtain ⟨fmt, hfmt⟩ := Option.ne_none_iff_exists'.1 hsome
    exact exec_aBeat_of_closed hconf hfmt hclosed

section Push

variable (nan : NaNs) (x : F64) {s : State}

theorem pushSampleA_of_partial (hpart : s.ana.part.length + 1 ≠ s.cfg.ch.toNat) :
    pushSampleA nan x s = { s with ana := { s.ana with part := s.ana.part ++ [x] } } := by
  obtain ⟨-, hpush⟩ | ⟨hfull, -⟩ := pushSampleA_cases nan x s
  · exact hpush
  · exact absurd hfull hpart

/-- A sample that completes a frame but no block sends the frame through the cascade to RB. -/
theorem pushSampleA_of_frame (hfull : s.ana.part.length + 1 = s.cfg.ch.toNat)
    (hrb : s.ana.rb.length + 1 < s.cfg.blockSize.toNat) :
    pushSampleA nan x s =
      pushFrame (nan.part 0) (s.ana.part ++ [x]) { s with ana := { s.ana with part := [] } } := by
  obtain ⟨hpart, -⟩ | ⟨-, hpush⟩ := pushSampleA_cases nan x s
  · exact absurd hfull hpart
  · obtain ⟨hblock, -⟩ | ⟨-, hframe⟩ :=
      analyzeFrame_cases nan (s.ana.part ++ [x]) { s with ana := { s.ana with part := [] } }
    · exact absurd hrb (Nat.not_lt.2 hblock)
    · rw [hpush, hframe]

end Push

/-- Settles O28: the beat is taken, and its sample does not complete the frame. -/
theorem aBeatHoldsSample : Obligations.ABeatHoldsSample := by
  intro s w fmt hconf hopen hfmt hpart
  refine ⟨s.nans [0], fpIsNaN_nans s [0], ?_⟩
  rw [exec_aBeat_of_taken hconf hopen hfmt, pushSampleA_of_partial _ _ hpart]
  rfl

/-- Settles O29: the frame goes through the cascade once, and each channel's part of it is that channel's two stages. -/
theorem aBeatFiltersFrame : Obligations.ABeatFiltersFrame := by
  intro s w fmt hconf hopen hfmt hfull hch hrb
  have hrun := exec_aBeat_of_taken (w := w) hconf hopen hfmt
  rw [pushSampleA_of_frame _ _ hfull hrb] at hrun
  have hlen : (s.ana.part ++ [dec (s.nans [0]) fmt (aBe s.ctrl) w]).length = s.cfg.ch.toNat :=
    List.length_append.trans hfull
  refine ⟨s.nans [0], _, _, fpIsNaN_nans s [0], hrun, ?samples, filterFrame_states_length .., ?others, ?stages⟩
  case samples => rw [filterFrame_samples_length, hlen, min_eq_right hch]
  case others => exact fun c hc => filterFrame_states_getElem?_of_le _ _ 0 (hlen.trans_le hc)
  case stages =>
    intro c f x hf hx
    obtain ⟨hstate, hsample⟩ := filterFrame_getElem? ((s.nans.part 1).part 0) s.coef 0 hf hx
    exact ⟨fun j => ((s.nans.part 1).part 0).part (0 + c) [j], _, _, fun _ => fpIsNaN_nans s _, rfl, rfl, hsample,
      hstate⟩

/-! ### The coefficients of CONFIGURE (R69, R70; 44_dynamics.md R91) -/

theorem exec_configure_of_accepted {fs : BitVec 20} {chm1 : BitVec 4} {s : State}
    (hok : configError s.build fs.toNat (chm1.toNat + 1) = none) :
    exec (.configure fs chm1) s = .next (applyConfig fs.toNat (chm1.toNat + 1) s) := by
  simp [exec, execConfigure, configure, hok]

@[simp] theorem applyConfig_coef (fs ch : Nat) (s : State) :
    (applyConfig fs ch s).coef = coeffsOf (s.nans.part 0) s.build fs := rfl

/-- The places of R70's operations in the model, in the order in which the obligation numbers them: A's exponent, w0,
beta, then the five coefficients with the values they share. -/
def shelfPaths : List (List Nat) :=
  [[1]] ++ [[2, 0], [2, 1], [2, 2]] ++ [[3, 0], [3, 1], [3, 2], [3, 3], [3, 4], [3, 5], [3, 6]] ++
    ([0, 2, 5, 1, 4, 7, 8, 9, 10, 11, 3, 12, 13, 6, 14, 15, 16, 17, 18, 19, 20, 21, 22].map fun j => [4, j])

/-- Settles O27: each register is its expression in the spec's order, once the NaNs are numbered by their operations. -/
theorem configureDerivesCoefficients : Obligations.ConfigureDerivesCoefficients := by
  intro fs chm1 s hok
  refine ⟨_, exec_configure_of_accepted hok, ?hpAlpha, ?atkCoef, ?relCoef, ?biquad⟩
  case hpAlpha => exact ⟨fun j => (s.nans.part 0).part 0 [j], fun _ => fpIsNaN_nans s _, rfl⟩
  case atkCoef => exact ⟨fun j => s.nans.part 1 [j], fun _ => fpIsNaN_nans s _, rfl⟩
  case relCoef => exact ⟨fun j => s.nans.part 2 [j], fun _ => fpIsNaN_nans s _, rfl⟩
  case biquad =>
    have hnan : ∀ path, fpIsNaN (s.nans.part 0 path) = true := fun _ => fpIsNaN_nans s _
    simp only [applyConfig_coef]
    -- With the supply a variable, `rfl` compares the operations and their places, never the patterns.
    generalize s.nans.part 0 = nan at hnan ⊢
    exact ⟨fun j => nan (shelfPaths.getD j []), _, _, _, _, _, _, _, _, _, fun _ => hnan _, rfl, rfl, rfl, rfl, rfl,
      rfl, rfl, rfl, rfl, rfl, rfl, rfl, rfl, rfl⟩

end Sys2Proof.Machine
end

section
/-! A full block (41_block_energy.md): the sign and the class of its energy (R76), and what a beat that fills the block
does with it (R74, R77, R78). -/

namespace Sys2Proof.Machine

/-! ### Values at or above +0 -/

/-- A value with no sign that is not NaN: +0, a positive number, or +inf. -/
def AtLeastZero (a : F64) : Prop := fpSign a = false ∧ fpIsNaN a = false

theorem fpLe_zero_of_atLeastZero {a : F64} (h : AtLeastZero a) : fpLe f64Zero a = true := by
  obtain ⟨hsign, hnan⟩ := h
  have hzero : fpIsNaN f64Zero = false := by decide
  have hkey : fpKey f64Zero ≤ fpKey a := by
    rw [show fpKey f64Zero = 0 by decide, fpKey, hsign]
    exact Int.natCast_nonneg _
  simp [fpLe, hzero, hnan, hkey]

theorem atLeastZero_pack {m : Nat} (hm : m ≤ infMag) : AtLeastZero (fpPack false m) := by
  refine ⟨fpSign_pack false m, ?_⟩
  rw [← Bool.not_eq_true, fpIsNaN_iff, fpMagBits_pack false (hm.trans_lt infMag_lt)]
  exact not_lt.2 hm

/-- A ratio rounded under no sign is at least +0: an overflow reaches +inf and no farther. -/
theorem atLeastZero_fpRound (n d : Nat) : AtLeastZero (fpRound false n d) :=
  atLeastZero_pack (roundMag_le_inf 53 infMag n d)

theorem fpVal_nonneg {a : F64} (h : fpSign a = false) : 0 ≤ fpVal a := by
  simp [fpVal, h]

/-- The square of a finite value has no sign, whatever the sign of the value. -/
theorem atLeastZero_fpMul_self (nan : F64) {x : F64} (hx : fpIsFinite x = true) : AtLeastZero (fpMul nan x x) := by
  rw [fpMul_of_finite hx hx, bne_self_eq_false]
  exact atLeastZero_fpRound _ _

/-- No cancellation and no opposed infinities: a sum of values at least +0 is one. -/
theorem atLeastZero_fpAdd (nan : F64) {a b : F64} (ha : AtLeastZero a) (hb : AtLeastZero b) :
    AtLeastZero (fpAdd nan a b) := by
  obtain ⟨hsa, hna⟩ := ha
  obtain ⟨hsb, hnb⟩ := hb
  have hsum : ¬ fpVal a + fpVal b < 0 := not_lt.2 (add_nonneg (fpVal_nonneg hsa) (fpVal_nonneg hsb))
  simp only [fpAdd, hna, hnb, hsa, hsb, hsum, Bool.or_false, Bool.false_eq_true, bne_self_eq_false, Bool.and_false,
    decide_false, if_false]
  split
  next => exact ⟨hsa, hna⟩
  next =>
    split
    next => exact ⟨hsb, hnb⟩
    next =>
      split
      next => exact atLeastZero_pack (Nat.zero_le _)
      next => exact atLeastZero_fpRound _ _

/-- Dividing by a positive finite value keeps a value at least +0. -/
theorem atLeastZero_fpDiv (nan : F64) {a b : F64} (ha : AtLeastZero a) (hb : fpIsFinite b = true)
    (hsign : fpSign b = false) (hzero : fpMagBits b ≠ 0) : AtLeastZero (fpDiv nan a b) := by
  obtain ⟨hsa, hna⟩ := ha
  obtain ⟨hnb, hib⟩ := not_nan_not_inf_of_finite hb
  simp only [fpDiv, hna, hnb, hib, hsa, hsign, hzero, Bool.or_false, Bool.false_eq_true, bne_self_eq_false, if_false]
  split
  next => exact atLeastZero_pack le_rfl
  next => exact atLeastZero_fpRound _ _

/-! ### The energy of a block (R76) -/

/-- A count below 2^53 is a positive finite binary64. -/
theorem fpOfNat_pos {n : Nat} (hpos : 0 < n) (hn : n < 2 ^ 53) :
    fpIsFinite (fpOfNat n) = true ∧ fpSign (fpOfNat n) = false ∧ fpMagBits (fpOfNat n) ≠ 0 := by
  obtain ⟨hfin, hsign, hmag⟩ := fpRound_exact (n := n * 2 ^ 1074) false Nat.one_pos hn (k := 1074) (by decide)
    (Nat.mul_one _).symm
  refine ⟨hfin, hsign, fun hbits => ?_⟩
  have hunits : fpMag (fpOfNat n) = 0 := by rw [fpMag_eq_magUnits, hbits, magUnits, Nat.zero_sub, Nat.zero_mul]
  exact (Nat.mul_pos hpos (by positivity)).ne' (hmag.symm.trans hunits)

theorem atLeastZero_zero : AtLeastZero f64Zero := ⟨by decide, by decide⟩

/-- A running sum of squares of finite values stays at least +0. -/
theorem atLeastZero_foldl_squares (nan : F64) {xs : List F64} (hxs : ∀ x ∈ xs, fpIsFinite x = true) :
    ∀ {acc : F64}, AtLeastZero acc → AtLeastZero (xs.foldl (fun acc x => fpAdd nan acc (fpMul nan x x)) acc) := by
  induction xs with
  | nil => exact fun hacc => hacc
  | cons x xs ih =>
    obtain ⟨hx, hrest⟩ := List.forall_mem_cons.1 hxs
    exact fun hacc => ih hrest (atLeastZero_fpAdd nan hacc (atLeastZero_fpMul_self nan hx))

/-- Settles O33: the running sum starts at +0 and takes squares only, and the divisor is positive. -/
theorem blockEnergyNonnegative : Obligations.BlockEnergyNonnegative := by
  intro nan n frames hpos hn hfin
  obtain ⟨hdiv, hsign, hzero⟩ := fpOfNat_pos hpos hn
  have hflat : ∀ x ∈ frames.flatten, fpIsFinite x = true := fun x hx => by
    obtain ⟨frame, hframe, hmem⟩ := List.mem_flatten.1 hx
    exact hfin frame hframe x hmem
  have hsum : AtLeastZero (sumSquares nan frames) := atLeastZero_foldl_squares nan hflat atLeastZero_zero
  exact fpLe_zero_of_atLeastZero (atLeastZero_fpDiv nan hsum hdiv hsign hzero)

/-! ### The gate and the window (R74, R77, R78) -/

section Store

variable (e : F64) {s : State}

/-- Whatever the gate says, the block is counted and the window advances by a hop. -/
theorem storeBlock_session :
    (storeBlock e s).ana.filter = s.ana.filter ∧
      (storeBlock e s).ana.rb = s.ana.rb.drop s.cfg.hopSize.toNat ∧
      (storeBlock e s).ana.frames = s.ana.frames ∧ (storeBlock e s).ana.nemit = s.ana.nemit + 1 ∧
      (storeBlock e s).ana.part = s.ana.part := by
  obtain ⟨-, -, hrun⟩ | ⟨-, -, hrun⟩ | ⟨-, hrun⟩ := storeBlock_cases e s <;> rw [hrun] <;>
    exact ⟨rfl, rfl, rfl, rfl, rfl⟩

theorem storeBlock_frame :
    storeBlock e s =
      { s with ana := (storeBlock e s).ana, mem := (storeBlock e s).mem, status := (storeBlock e s).status } := by
  obtain ⟨-, -, hrun⟩ | ⟨-, -, hrun⟩ | ⟨-, hrun⟩ := storeBlock_cases e s <;> rw [hrun]

/-- The bytes outside the next entry stay. -/
theorem storeBlock_byte_outside (hwf : s.mem.wf = true) {a : Nat}
    (ha : ¬ (blkAddr s.ana.nblk ≤ a ∧ a < blkAddr s.ana.nblk + 8)) :
    (storeBlock e s).mem.byte a = s.mem.byte a := by
  obtain ⟨-, -, hrun⟩ | ⟨-, -, hrun⟩ | ⟨-, hrun⟩ := storeBlock_cases e s <;> rw [hrun]
  exact Memory.byte_setBytes_outside _ _ _ hwf (by rw [leBytes_length]; omega)

variable {e}

/-- A block that passes the absolute gate takes the next entry while there is one. -/
theorem storeBlock_of_kept (hwf : s.mem.wf = true) (hgate : fpLe s.con.absThr e = true)
    (hroom : s.ana.nblk < s.build.blkDepth) :
    (storeBlock e s).ana.nblk = s.ana.nblk + 1 ∧ blkRead (storeBlock e s).mem s.ana.nblk = e ∧
      (storeBlock e s).status = s.status := by
  obtain ⟨-, -, hrun⟩ | ⟨-, hfull, -⟩ | ⟨hgated, -⟩ := storeBlock_cases e s
  · rw [hrun]
    exact ⟨rfl, blkRead_blkWrite_same hwf _ e, rfl⟩
  · omega
  · simp [hgate] at hgated

/-- With block memory full, a block that passes the gate is lost and sets BLK_OVF. -/
theorem storeBlock_of_full (hgate : fpLe s.con.absThr e = true) (hfull : s.build.blkDepth ≤ s.ana.nblk) :
    (storeBlock e s).ana.nblk = s.ana.nblk ∧ (storeBlock e s).mem = s.mem ∧
      (storeBlock e s).status = s.status.raise .blkOvf := by
  obtain ⟨-, hroom, -⟩ | ⟨-, -, hrun⟩ | ⟨hgated, -⟩ := storeBlock_cases e s
  · omega
  · rw [hrun]
    exact ⟨rfl, rfl, rfl⟩
  · simp [hgate] at hgated

/-- A block under the gate is discarded. -/
theorem storeBlock_of_gated (hgate : fpLe s.con.absThr e = false) :
    (storeBlock e s).ana.nblk = s.ana.nblk ∧ (storeBlock e s).mem = s.mem ∧ (storeBlock e s).status = s.status := by
  obtain ⟨hpass, -, -⟩ | ⟨hpass, -, -⟩ | ⟨-, hrun⟩ := storeBlock_cases e s
  · simp [hgate] at hpass
  · simp [hgate] at hpass
  · rw [hrun]
    exact ⟨rfl, rfl, rfl⟩

end Store

/-! ### The beat that fills a block -/

/-- ANALYZE_FRAME on the frame that a sample completes, up to its test for a full block (40_kweight.md R63, R64). -/
def joinFrame (nan : NaNs) (x : F64) (s : State) : State :=
  pushFrame nan (s.ana.part ++ [x]) { s with ana := { s.ana with part := [] } }

/-- A sample that completes a frame and a block sends the frame through the cascade and emits the block. -/
theorem pushSampleA_of_block (nan : NaNs) (x : F64) {s : State} (hfull : s.ana.part.length + 1 = s.cfg.ch.toNat)
    (hblock : s.cfg.blockSize.toNat ≤ s.ana.rb.length + 1) :
    pushSampleA nan x s = blockEmit (nan [1]) (joinFrame (nan.part 0) x s) := by
  obtain ⟨hpart, -⟩ | ⟨-, hpush⟩ := pushSampleA_cases nan x s
  · exact absurd hfull hpart
  · obtain ⟨-, hemit⟩ | ⟨hrb, -⟩ :=
      analyzeFrame_cases nan (s.ana.part ++ [x]) { s with ana := { s.ana with part := [] } }
    · exact hpush.trans hemit
    · exact absurd hrb (Nat.not_lt.2 hblock)

/-- A supply with another value at its own place; the supplies of its parts stay. O30 draws the decoded sample's NaN and
the cascade's from one supply, the model from two. -/
def NaNs.withRoot (nan : NaNs) (v : F64) : NaNs
  | [] => v
  | k :: path => nan (k :: path)

theorem fpIsNaN_withRoot {nan : NaNs} {v : F64} (hnan : ∀ path, fpIsNaN (nan path) = true) (hv : fpIsNaN v = true) :
    ∀ path, fpIsNaN (nan.withRoot v path) = true
  | [] => hv
  | _ :: _ => hnan _

/-- The cascade draws from the parts of its supply only. -/
theorem filterFrame_withRoot (nan : NaNs) (v : F64) (k : Coeffs) :
    ∀ (c : Nat) (fs : List FilterState) (xs : List F64),
      filterFrame (nan.withRoot v) k c fs xs = filterFrame nan k c fs xs
  | _, _ :: fs, _ :: xs => by
    simp only [filterFrame, filterFrame_withRoot nan v k _ fs xs]
    rfl
  | _, [], [] => rfl
  | _, _ :: _, [] => rfl
  | _, [], _ :: _ => rfl

/-- Settles O30: the frame joins RB, and BLOCK_EMIT gates the energy of the oldest frames. -/
theorem aBeatEmitsBlock : Obligations.ABeatEmitsBlock := by
  intro s w fmt hwf hconf hopen hfmt hfull hblock
  have hrun := exec_aBeat_of_taken (w := w) hconf hopen hfmt
  rw [pushSampleA_of_block _ _ hfull hblock, blockEmit] at hrun
  obtain ⟨hfilter, hrb, hframes, hnemit, hpart⟩ :=
    storeBlock_session (s := joinFrame ((s.nans.part 1).part 0) (dec (s.nans [0]) fmt (aBe s.ctrl) w) s) _
  refine ⟨_, ((s.nans.part 1).part 0).withRoot (s.nans [0]), _, s.nans.part 1 [1], _,
    fpIsNaN_withRoot (fun _ => fpIsNaN_nans s _) (fpIsNaN_nans s _), fpIsNaN_nans s _, hrun, ?cascade, rfl,
    hrb, hframes, hnemit, hpart, ?outside, ?kept, ?full, ?gated, congrArg State.bumpNaN (storeBlock_frame _)⟩
  case cascade =>
    rw [filterFrame_withRoot]
    exact Prod.ext hfilter rfl
  case outside => exact fun a ha => storeBlock_byte_outside (s := joinFrame _ _ s) _ hwf ha
  case kept => exact fun hgate hroom => storeBlock_of_kept (s := joinFrame _ _ s) hwf hgate hroom
  case full => exact fun hgate hdepth => storeBlock_of_full (s := joinFrame _ _ s) hgate hdepth
  case gated => exact fun hgate => storeBlock_of_gated (s := joinFrame _ _ s) hgate

end Sys2Proof.Machine
end

section
/-! The analysis session (42_gate_aggregate.md): A_RESET opens one (R79), A_FINALIZE gates its retained blocks, reports
and closes it (R80 to R83). -/

namespace Sys2Proof.Machine

/-- A command that drops a partial frame sets PART_DROP exactly when the frame held a sample. -/
theorem Status.raiseIf_nonempty_partDrop (st : Status) (part : List F64) :
    st.raiseIf (!part.isEmpty) .partDrop = { st with partDrop := st.partDrop || decide (part ≠ []) } := by
  cases part with
  | nil => simp
  | cons x xs => simp [Status.raise]

/-! ### The two commands by the state of the session (R79, R80) -/

section Session

variable {s : State}

theorem exec_aReset_of_configured (hconf : s.status.configured = true) :
    exec .aReset s = .next (openSession s) := by
  simp [exec, execAReset, sessionReset, whenConfigured, hconf]

theorem exec_aReset_of_unconfigured (hconf : s.status.configured = false) :
    exec .aReset s = .next (raiseError .notConfigured s) := by
  simp [exec, execAReset, sessionReset, whenConfigured, hconf]

theorem exec_aFinalize_of_open (hconf : s.status.configured = true) (hopen : s.status.aOpen = true) :
    exec .aFinalize s = .next (closeSession s) := by
  simp [exec, execAFinalize, finalize, whenConfigured, hconf, hopen]

theorem exec_aFinalize_of_closed (hconf : s.status.configured = true) (hclosed : s.status.aOpen = false) :
    exec .aFinalize s = .next (raiseError .sessionClosed s) := by
  simp [exec, execAFinalize, finalize, whenConfigured, hconf, hclosed]

end Session

@[simp] theorem closeSession_aOpen (s : State) : (closeSession s).status.aOpen = false := rfl

@[simp] theorem closeSession_configured (s : State) : (closeSession s).status.configured = s.status.configured :=
  (Status.raise_configured ..).trans (Status.raiseIf_configured ..)

/-- Settles O35: PART_DROP is the one status bit besides A_OPEN that a held partial frame touches. -/
theorem aResetOpensSession : Obligations.AResetOpensSession := by
  refine fun s => ⟨fun hconf => ?_, exec_aReset_of_unconfigured⟩
  rw [exec_aReset_of_configured hconf, openSession, Status.raiseIf_nonempty_partDrop]
  rfl

/-- Settles O37: an A_FINALIZE that runs leaves the machine configured with its session closed. -/
theorem finalizeNeedsOpenSession : Obligations.FinalizeNeedsOpenSession := by
  refine ⟨fun _ => exec_aFinalize_of_closed, fun s hconf hopen => ⟨_, exec_aFinalize_of_open hconf hopen, ?_⟩⟩
  exact exec_aFinalize_of_closed ((closeSession_configured s).trans hconf) (closeSession_aOpen s)

/-! ### The two gates and the loudness (R80 to R83) -/

@[simp] theorem energies_length (s : State) : (energies s).length = s.ana.nblk := by
  simp [energies]

/-- The second pass: with two blocks or more, those at or above the mean of all A_NBLK of them times REL_FACTOR. -/
theorem survivors_energies (nan relFactor : F64) (s : State) :
    survivors nan relFactor (energies s) =
      if 2 ≤ s.ana.nblk then
        (energies s).filter fun e =>
          fpLe (fpMul nan (fpDiv nan (sumList nan (energies s)) (fpOfNat s.ana.nblk)) relFactor) e
      else [] := by
  simp only [survivors, relativeGate, meanList, energies_length]

/-- A loudness is valid for at least one survivor, with a positive finite mean and a finite loudness. -/
theorem validLoudness_iff (nan lufsCal : F64) (kept : List F64) :
    validLoudness nan lufsCal kept = true ↔
      kept ≠ [] ∧ fpLt f64Zero (meanList nan kept) = true ∧ fpIsFinite (meanList nan kept) = true ∧
        fpIsFinite (loudness nan lufsCal (meanList nan kept)) = true := by
  cases kept with
  | nil => simp [validLoudness]
  | cons e es => simp [validLoudness, and_assoc]

/-- A_FINALIZE on an open session with its status bits written one by one. -/
theorem closeSession_eq (s : State) :
    closeSession s =
      { s with
        status := { s.status with
          resValid := validLoudness (s.nans []) s.con.lufsCal (survivors (s.nans []) s.con.relFactor (energies s))
          aOpen := false, done := true
          partDrop := s.status.partDrop || decide (s.ana.part ≠ []) }
        res := gateResults (s.nans []) s.con (energies s)
        ana := { s.ana with part := [], rb := [] }
        nanSeq := s.nanSeq + 1 } := by
  rw [closeSession, Status.raiseIf_nonempty_partDrop]
  rfl

/-- Settles O36: the survivors, their mean and its loudness are the model's own, with one free NaN pattern for all. -/
theorem aFinalizeReports : Obligations.AFinalizeReports := by
  intro s hconf hopen
  refine ⟨s.nans [], energies s, survivors (s.nans []) s.con.relFactor (energies s), _, _, _, fpIsNaN_nans s [], rfl,
    survivors_energies .., rfl, rfl, validLoudness_iff .., ?_⟩
  rw [exec_aFinalize_of_open hconf hopen, closeSession_eq, gateResults, energies_length]
  rfl

end Sys2Proof.Machine
end

section
/-! The order of binary64 (00_scope.md R10): comparisons are those of the keys, rounding keeps the order, and so do the
difference in its subtrahend and the quotient by a positive value. -/

namespace Sys2Proof.Machine

/-! ### Comparisons -/

theorem fpLe_iff {a b : F64} :
    fpLe a b = true ↔ fpIsNaN a = false ∧ fpIsNaN b = false ∧ fpKey a ≤ fpKey b := by
  simp [fpLe, and_assoc]

theorem fpLt_iff {a b : F64} :
    fpLt a b = true ↔ fpIsNaN a = false ∧ fpIsNaN b = false ∧ fpKey a < fpKey b := by
  simp [fpLt, and_assoc]

theorem fpLe_refl {a : F64} (h : fpIsNaN a = false) : fpLe a a = true := fpLe_iff.2 ⟨h, h, le_rfl⟩

theorem fpLt_eq_false_of_fpLe {a b : F64} (h : fpLe a b = true) : fpLt b a = false := by
  obtain ⟨-, -, hkey⟩ := fpLe_iff.1 h
  simp [fpLt, hkey]

theorem fpLe_of_not_fpLt {a b : F64} (ha : fpIsNaN a = false) (hb : fpIsNaN b = false) (h : fpLt b a = false) :
    fpLe a b = true := by
  rw [fpLe_iff]
  simpa [fpLt, ha, hb] using h

theorem fpLt_of_fpLt_of_fpLe {a b c : F64} (hab : fpLt a b = true) (hbc : fpLe b c = true) : fpLt a c = true := by
  obtain ⟨ha, -, hkey⟩ := fpLt_iff.1 hab
  obtain ⟨-, hc, hkey'⟩ := fpLe_iff.1 hbc
  exact fpLt_iff.2 ⟨ha, hc, hkey.trans_le hkey'⟩

theorem fpLe_of_fpLe_of_fpLt {a b c : F64} (hab : fpLe a b = true) (hbc : fpLt b c = true) : fpLe a c = true := by
  obtain ⟨ha, -, hkey⟩ := fpLe_iff.1 hab
  obtain ⟨-, hc, hkey'⟩ := fpLt_iff.1 hbc
  exact fpLe_iff.2 ⟨ha, hc, hkey.trans hkey'.le⟩

theorem fpLt_nan_left {a : F64} (b : F64) (h : fpIsNaN a = true) : fpLt a b = false := by simp [fpLt, h]

theorem fpLt_nan_right (a : F64) {b : F64} (h : fpIsNaN b = true) : fpLt a b = false := by simp [fpLt, h]

/-! ### Keys -/

theorem fpKey_eq_signed (a : F64) : fpKey a = signed (fpSign a) (fpMagBits a) := rfl

theorem fpMagBits_le_infMag {a : F64} (h : fpIsNaN a = false) : fpMagBits a ≤ infMag := by
  rwa [← Bool.not_eq_true, fpIsNaN_iff, not_lt] at h

theorem signed_bounds (neg : Bool) {m b : Nat} (h : m ≤ b) : -(b : Int) ≤ signed neg m ∧ signed neg m ≤ b := by
  cases neg <;> simp only [signed] <;> grind

/-- The infinities bound the keys of the values that are not NaN. -/
theorem fpKey_bounds {a : F64} (h : fpIsNaN a = false) : -(infMag : Int) ≤ fpKey a ∧ fpKey a ≤ infMag :=
  signed_bounds (fpSign a) (fpMagBits_le_infMag h)

/-- A monotone function of the magnitude that keeps 0 keeps the order of the values under their signs. -/
theorem signed_le_signed {f : Nat → Nat} (hf : Monotone f) (hzero : f 0 = 0) {p q : Bool} {m n : Nat}
    (h : signed p m ≤ signed q n) : signed p (f m) ≤ signed q (f n) := by
  cases p with
  | false =>
    cases q with
    | false => exact Int.ofNat_le.2 (hf (Int.ofNat_le.1 h))
    | true =>
      simp only [signed] at h ⊢
      obtain ⟨rfl, rfl⟩ : m = 0 ∧ n = 0 := by grind
      simp [hzero]
  | true =>
    cases q with
    | false => simp only [signed]; grind
    | true => exact neg_le_neg (Int.ofNat_le.2 (hf (Int.ofNat_le.1 (neg_le_neg_iff.1 h))))

/-- The order of the keys is that of the values. -/
theorem fpVal_le_of_fpKey_le {a b : F64} (h : fpKey a ≤ fpKey b) : fpVal a ≤ fpVal b := by
  rw [fpVal_eq_signed, fpVal_eq_signed, fpMag_eq_magUnits, fpMag_eq_magUnits]
  exact signed_le_signed (magUnits_strictMono 52).monotone (by decide) h

/-! ### Rounding -/

@[simp] theorem roundMag_zero (inf d : Nat) : roundMag 53 inf 0 d = 0 := by
  simp [roundMag, binade, rne]

/-- Rounding keeps the order below infinity: were the patterns of m < n in the opposite order, m would lie at or above
their middle, being no farther from the higher one, and n at or below it. -/
theorem roundMag_le_of_lt_inf {w inf m n d : Nat} (hd : 0 < d) (hle : m ≤ n)
    (hm : roundMag (w + 1) inf m d < inf) (hn : roundMag (w + 1) inf n d < inf) :
    roundMag (w + 1) inf m d ≤ roundMag (w + 1) inf n d := by
  obtain rfl | hlt := hle.eq_or_lt
  · exact le_rfl
  refine not_lt.1 fun hinv => ?_
  have hnear := roundMag_nearest hd hm (roundMag (w + 1) inf n d)
  have hnear' := roundMag_nearest hd hn (roundMag (w + 1) inf m d)
  have hunits := Nat.mul_lt_mul_of_pos_right (magUnits_strictMono w hinv) hd
  zify at hunits
  omega

/-- A higher infinity that neither of two ratios reaches. -/
theorem exists_cap_above_roundMag (p inf m n d : Nat) :
    ∃ cap, inf ≤ cap ∧ roundMag p cap m d < cap ∧ roundMag p cap n d < cap := by
  have hbound : ∀ k, ∃ b, ∀ cap, b < cap → roundMag p cap k d < cap := fun _ => ⟨_, fun _ => min_lt_of_left_lt⟩
  obtain ⟨b, hb⟩ := hbound m
  obtain ⟨c, hc⟩ := hbound n
  exact ⟨inf + b + c + 1, by omega, hb _ (by omega), hc _ (by omega)⟩

/-- R10: rounding keeps the order, overflow included. -/
theorem roundMag_mono (w inf : Nat) {d : Nat} (hd : 0 < d) : Monotone fun n => roundMag (w + 1) inf n d := by
  intro m n hle
  obtain ⟨cap, hcap, hm, hn⟩ := exists_cap_above_roundMag (w + 1) inf m n d
  have hmin : ∀ k, roundMag (w + 1) inf k d = min (roundMag (w + 1) cap k d) inf := fun k => by
    simp only [roundMag, min_assoc, min_eq_right hcap]
  simp only [hmin]
  exact min_le_min_right _ (roundMag_le_of_lt_inf hd hle hm hn)

theorem fpIsNaN_pack (neg : Bool) {m : Nat} (hm : m ≤ infMag) : fpIsNaN (fpPack neg m) = false := by
  rw [← Bool.not_eq_true, fpIsNaN_iff, fpMagBits_pack neg (hm.trans_lt infMag_lt)]
  exact not_lt.2 hm

@[simp] theorem fpIsNaN_fpRound (neg : Bool) (n d : Nat) : fpIsNaN (fpRound neg n d) = false :=
  fpIsNaN_pack neg (roundMag_le_inf 53 infMag n d)

/-- The key of a packed pattern. -/
theorem fpKey_pack (neg : Bool) {m : Nat} (hm : m ≤ infMag) : fpKey (fpPack neg m) = signed neg m := by
  rw [fpKey_eq_signed, fpSign_pack, fpMagBits_pack neg (hm.trans_lt infMag_lt)]

theorem fpKey_fpRound (neg : Bool) (n d : Nat) : fpKey (fpRound neg n d) = signed neg (roundMag 53 infMag n d) :=
  fpKey_pack neg (roundMag_le_inf 53 infMag n d)

/-! ### The difference -/

/-- The exclusive or with the sign bit turns the sign and keeps the magnitude bits. -/
theorem fpNeg_eq (a : F64) : fpNeg a = fpPack (!fpSign a) (fpMagBits a) := by
  have hmask : 0x8000000000000000#64 = BitVec.ofBool true ++ 0#63 := by decide
  conv_lhs => rw [← fpPack_sign_magBits a]
  rw [fpNeg, hmask, fpPack, fpPack, BitVec.xor_append, BitVec.ofBool_xor_ofBool, Bool.xor_true, BitVec.xor_zero]

@[simp] theorem fpSign_fpNeg (a : F64) : fpSign (fpNeg a) = !fpSign a := by rw [fpNeg_eq, fpSign_pack]

@[simp] theorem fpMagBits_fpNeg (a : F64) : fpMagBits (fpNeg a) = fpMagBits a := by
  rw [fpNeg_eq, fpMagBits_pack _ (fpMagBits_lt a)]

@[simp] theorem fpIsFinite_fpNeg (a : F64) : fpIsFinite (fpNeg a) = fpIsFinite a := by
  rw [Bool.eq_iff_iff, fpIsFinite_iff, fpIsFinite_iff, fpMagBits_fpNeg]

theorem fpVal_fpNeg (a : F64) : fpVal (fpNeg a) = -fpVal a := by
  have hmag : fpMag (fpNeg a) = fpMag a := by rw [fpMag_eq_magUnits, fpMag_eq_magUnits, fpMagBits_fpNeg]
  cases hs : fpSign a <;> simp [fpVal, hmag, hs]

/-- A finite value less itself is +0. -/
theorem fpSub_self (nan : F64) {a : F64} (ha : fpIsFinite a = true) : fpSub nan a a = f64Zero := by
  rw [fpSub, fpAdd_of_finite ha ((fpIsFinite_fpNeg a).trans ha), if_pos (by rw [fpVal_fpNeg, add_neg_cancel]),
    fpSign_fpNeg, Bool.and_not_self]
  decide

theorem fpSub_nan_left (nan : F64) {a : F64} (b : F64) (ha : fpIsNaN a = true) : fpSub nan a b = nan := by
  simp [fpSub, fpAdd, ha]

section FiniteSubtrahend

variable (nan : F64) {a b : F64} (hb : fpIsFinite b = true)
include hb

/-- An infinity less a finite value is that infinity. -/
theorem fpSub_of_inf (ha : fpIsInf a = true) (hnan : fpIsNaN a = false) : fpSub nan a b = a := by
  obtain ⟨hnb, hib⟩ := not_nan_not_inf_of_finite ((fpIsFinite_fpNeg b).trans hb)
  simp [fpSub, fpAdd, ha, hnan, hnb, hib]

/-- The difference of finite values: its key is that of the exact difference rounded, and it is not NaN. -/
theorem fpSub_of_finite (ha : fpIsFinite a = true) :
    fpIsNaN (fpSub nan a b) = false ∧
      fpKey (fpSub nan a b) =
        signed (decide (fpVal a - fpVal b < 0)) (roundMag 53 infMag (fpVal a - fpVal b).natAbs 1) := by
  rw [fpSub, fpAdd_of_finite ha ((fpIsFinite_fpNeg b).trans hb), fpVal_fpNeg, ← sub_eq_add_neg]
  split
  next hzero =>
    refine ⟨fpIsNaN_pack _ (Nat.zero_le _), ?_⟩
    rw [hzero, fpKey_pack _ (Nat.zero_le _), Int.natAbs_zero, roundMag_zero]
    simp [signed]
  next => exact ⟨fpIsNaN_fpRound .., fpKey_fpRound ..⟩

theorem fpIsNaN_fpSub (ha : fpIsNaN a = false) : fpIsNaN (fpSub nan a b) = false := by
  cases hinf : fpIsInf a with
  | true => rwa [fpSub_of_inf nan hb hinf ha]
  | false =>
    obtain ⟨hnan, -⟩ := fpSub_of_finite nan hb (a := a) (by simp [fpIsFinite_eq, ha, hinf])
    exact hnan

end FiniteSubtrahend

/-- R86: the difference is non-increasing in its finite subtrahend. -/
theorem fpSub_antitone (nan : F64) {r m₁ m₂ : F64} (hr : fpIsNaN r = false) (h₁ : fpIsFinite m₁ = true)
    (h₂ : fpIsFinite m₂ = true) (hle : fpLe m₁ m₂ = true) : fpLe (fpSub nan r m₂) (fpSub nan r m₁) = true := by
  cases hinf : fpIsInf r with
  | true => rw [fpSub_of_inf nan h₁ hinf hr, fpSub_of_inf nan h₂ hinf hr]; exact fpLe_refl hr
  | false =>
    have hfin : fpIsFinite r = true := by simp [fpIsFinite_eq, hr, hinf]
    obtain ⟨hnan₁, hkey₁⟩ := fpSub_of_finite nan h₁ hfin
    obtain ⟨hnan₂, hkey₂⟩ := fpSub_of_finite nan h₂ hfin
    obtain ⟨-, -, hkey⟩ := fpLe_iff.1 hle
    refine fpLe_iff.2 ⟨hnan₂, hnan₁, ?_⟩
    rw [hkey₁, hkey₂]
    refine signed_le_signed (roundMag_mono 52 infMag Nat.one_pos) (roundMag_zero _ _) ?_
    rw [signed_sign_natAbs, signed_sign_natAbs]
    exact sub_le_sub_left (fpVal_le_of_fpKey_le hkey) _

/-! ### The quotient by a positive value -/

/-- The magnitude bits of a quotient by the positive magnitude `c`, from those of the dividend. -/
def quotientMag (c m : Nat) : Nat :=
  if m < infMag then roundMag 53 infMag (magUnits 52 m * 2 ^ 1074) c else infMag

theorem quotientMag_zero (c : Nat) : quotientMag c 0 = 0 := by
  rw [quotientMag, if_pos (by decide), magUnits, Nat.zero_sub, Nat.zero_mul, Nat.zero_mul, roundMag_zero]

theorem quotientMag_le_infMag (c m : Nat) : quotientMag c m ≤ infMag := by
  unfold quotientMag
  split
  next => exact roundMag_le_inf ..
  next => exact le_rfl

theorem quotientMag_mono {c : Nat} (hc : 0 < c) : Monotone (quotientMag c) := by
  intro m n hle
  by_cases hn : n < infMag
  · rw [quotientMag, quotientMag, if_pos hn, if_pos (hle.trans_lt hn)]
    exact roundMag_mono 52 infMag hc (Nat.mul_le_mul_right _ ((magUnits_strictMono 52).monotone hle))
  · exact (quotientMag_le_infMag c m).trans_eq (if_neg hn).symm

section PositiveDivisor

variable (nan : F64) {a b c : F64} (hc : fpIsFinite c = true) (hsign : fpSign c = false) (hzero : fpMagBits c ≠ 0)

include hc hsign hzero

/-- The quotient by a positive value has the sign of the dividend; an infinite dividend stays infinite. -/
theorem fpDiv_eq_pack (ha : fpIsNaN a = false) :
    fpDiv nan a c = fpPack (fpSign a) (quotientMag (fpMag c) (fpMagBits a)) := by
  obtain ⟨hnc, hic⟩ := not_nan_not_inf_of_finite hc
  cases hinf : fpIsInf a with
  | true =>
    rw [quotientMag, if_neg ((fpIsInf_iff a).1 hinf).not_lt]
    simp only [fpDiv, ha, hnc, hic, hinf, hsign, Bool.or_false, Bool.bne_false, Bool.false_eq_true, if_false, if_true,
      fpInf]
  | false =>
    have hfin : fpIsFinite a = true := by simp [fpIsFinite_eq, ha, hinf]
    rw [fpDiv_of_finite hfin hc nan hzero, hsign, Bool.bne_false, fpRound, quotientMag,
      if_pos ((fpIsFinite_iff a).1 hfin), ← fpMag_eq_magUnits]

theorem fpIsNaN_fpDiv (ha : fpIsNaN a = false) : fpIsNaN (fpDiv nan a c) = false := by
  rw [fpDiv_eq_pack nan hc hsign hzero ha]
  exact fpIsNaN_pack _ (quotientMag_le_infMag ..)

theorem fpKey_fpDiv (ha : fpIsNaN a = false) :
    fpKey (fpDiv nan a c) = signed (fpSign a) (quotientMag (fpMag c) (fpMagBits a)) := by
  rw [fpDiv_eq_pack nan hc hsign hzero ha, fpKey_pack _ (quotientMag_le_infMag ..)]

/-- R86: the quotient by a positive value is non-decreasing. -/
theorem fpDiv_mono (hle : fpLe a b = true) : fpLe (fpDiv nan a c) (fpDiv nan b c) = true := by
  obtain ⟨ha, hb, hkey⟩ := fpLe_iff.1 hle
  refine fpLe_iff.2 ⟨fpIsNaN_fpDiv nan hc hsign hzero ha, fpIsNaN_fpDiv nan hc hsign hzero hb, ?_⟩
  rw [fpKey_fpDiv nan hc hsign hzero ha, fpKey_fpDiv nan hc hsign hzero hb]
  exact signed_le_signed (quotientMag_mono (fpMag_pos hzero)) (quotientMag_zero _) hkey

end PositiveDivisor

end Sys2Proof.Machine
end

section
/-! The gain mapper (43_gain_mapper.md): the clamp and the gain (R85), its exponent over measurements (R86), and
D_SET_TARGET (R87). -/

namespace Sys2Proof.Machine

/-! ### The clamp (R85) -/

section Clamp

variable {con : Consts} {d : F64}

theorem clampDb_of_between (hlow : fpLt d con.minGainDb = false) (hhigh : fpLt con.maxGainDb d = false) :
    clampDb con d = d := by
  simp [clampDb, hlow, hhigh]

theorem clampDb_of_below (hlow : fpLt d con.minGainDb = true) (hord : fpLt con.maxGainDb con.minGainDb = false) :
    clampDb con d = con.minGainDb := by
  simp [clampDb, hlow, hord]

theorem clampDb_of_above (hlow : fpLt d con.minGainDb = false) (hhigh : fpLt con.maxGainDb d = true) :
    clampDb con d = con.maxGainDb := by
  simp [clampDb, hlow, hhigh]

/-- With the bounds inverted, the upper one is applied to whatever the lower one gives. -/
theorem clampDb_of_inverted (hd : fpIsNaN d = false) (hinv : fpLt con.maxGainDb con.minGainDb = true) :
    clampDb con d = con.maxGainDb := by
  obtain ⟨-, hmin, -⟩ := fpLt_iff.1 hinv
  cases hlow : fpLt d con.minGainDb with
  | true => simp [clampDb, hlow, hinv]
  | false => exact clampDb_of_above hlow (fpLt_of_fpLt_of_fpLe hinv (fpLe_of_not_fpLt hmin hd hlow))

theorem clampDb_of_min_nan (hmin : fpIsNaN con.minGainDb = true) :
    clampDb con d = if fpLt con.maxGainDb d then con.maxGainDb else d := by
  simp [clampDb, fpLt_nan_right d hmin]

theorem clampDb_of_max_nan (hmax : fpIsNaN con.maxGainDb = true) :
    clampDb con d = if fpLt d con.minGainDb then con.minGainDb else d := by
  simp [clampDb, fpLt_nan_left _ hmax]

section Ordered

variable {d' : F64} (hord : fpLe con.minGainDb con.maxGainDb = true)
include hord

/-- On the keys, the clamp to bounds in order is a maximum and then a minimum. -/
theorem clampDb_of_ordered (hd : fpIsNaN d = false) :
    fpIsNaN (clampDb con d) = false ∧
      fpKey (clampDb con d) = min (max (fpKey d) (fpKey con.minGainDb)) (fpKey con.maxGainDb) := by
  obtain ⟨hmin, hmax, hkey⟩ := fpLe_iff.1 hord
  cases hlow : fpLt d con.minGainDb with
  | true =>
    obtain ⟨-, -, hbelow⟩ := fpLt_iff.1 hlow
    rw [clampDb_of_below hlow (fpLt_eq_false_of_fpLe hord)]
    exact ⟨hmin, by omega⟩
  | false =>
    obtain ⟨-, -, hover⟩ := fpLe_iff.1 (fpLe_of_not_fpLt hmin hd hlow)
    cases hhigh : fpLt con.maxGainDb d with
    | true =>
      obtain ⟨-, -, habove⟩ := fpLt_iff.1 hhigh
      rw [clampDb_of_above hlow hhigh]
      exact ⟨hmax, by omega⟩
    | false =>
      obtain ⟨-, -, hunder⟩ := fpLe_iff.1 (fpLe_of_not_fpLt hd hmax hhigh)
      rw [clampDb_of_between hlow hhigh]
      exact ⟨hd, by omega⟩

theorem fpLe_min_clampDb (hd : fpIsNaN d = false) : fpLe con.minGainDb (clampDb con d) = true := by
  obtain ⟨hmin, -, hkey⟩ := fpLe_iff.1 hord
  obtain ⟨hnan, hclamp⟩ := clampDb_of_ordered hord hd
  exact fpLe_iff.2 ⟨hmin, hnan, by omega⟩

theorem fpLe_clampDb_max (hd : fpIsNaN d = false) : fpLe (clampDb con d) con.maxGainDb = true := by
  obtain ⟨-, hmax, -⟩ := fpLe_iff.1 hord
  obtain ⟨hnan, hclamp⟩ := clampDb_of_ordered hord hd
  exact fpLe_iff.2 ⟨hnan, hmax, by omega⟩

/-- R86: the clamp is monotonic. -/
theorem clampDb_mono (hle : fpLe d d' = true) : fpLe (clampDb con d) (clampDb con d') = true := by
  obtain ⟨hd, hd', hkey⟩ := fpLe_iff.1 hle
  obtain ⟨hnan, hclamp⟩ := clampDb_of_ordered hord hd
  obtain ⟨hnan', hclamp'⟩ := clampDb_of_ordered hord hd'
  exact fpLe_iff.2 ⟨hnan, hnan', by omega⟩

end Ordered

end Clamp

/-! ### The gain (R85) -/

section Gain

variable (nan : F64) (con : Consts) {m r : F64}

/-- An invalid measurement asks for no correction. -/
theorem gain_of_not_finite (hm : fpIsFinite m = false) : gain nan con m r = f64One := by
  simp [gain, hm]

theorem gain_of_nan_reference (hr : fpIsNaN r = true) (hnan : fpIsNaN nan = true) : gain nan con m r = f64One := by
  simp [gain, fpSub_nan_left nan m hr, hnan]

/-- The gain of a valid measurement under a reference that is not NaN. -/
theorem gain_eq_pow (hm : fpIsFinite m = true) (hr : fpIsNaN r = false) :
    gain nan con m r = mathPow f64Ten (fpDiv nan (clampDb con (fpSub nan r m)) f64Twenty) := by
  simp [gain, hm, fpIsNaN_fpSub nan hm hr]

end Gain

theorem fpDiv_zero_twenty (nan : F64) : fpDiv nan f64Zero f64Twenty = f64Zero := by
  rw [fpDiv_eq_pack nan (by decide) (by decide) (by decide) (by decide), show fpMagBits f64Zero = 0 by decide,
    quotientMag_zero]
  decide

/-- Settles O38: for equal loudnesses the difference is +0, which bounds around 0 dB keep, and pow(10, +0) is 1. -/
theorem gainIsUnityWithoutCorrection : Obligations.GainIsUnityWithoutCorrection := by
  refine fun nan con m r => ⟨gain_of_not_finite nan con, gain_of_nan_reference nan con, fun hm hlow hhigh => ?_⟩
  obtain ⟨hnan, -⟩ := not_nan_not_inf_of_finite hm
  rw [gain_eq_pow nan con hm hnan, fpSub_self nan hm, clampDb_of_between hlow hhigh, fpDiv_zero_twenty,
    mathPow_ten_zero]

/-- Settles O39: the clamped difference, by the order of the bounds. -/
theorem gainIsClamped : Obligations.GainIsClamped := by
  intro nan con m r hm hr
  have hd : fpIsNaN (fpSub nan r m) = false := fpIsNaN_fpSub nan hm hr
  refine ⟨clampDb con (fpSub nan r m), gain_eq_pow nan con hm hr, fun hord => ?ordered, clampDb_of_inverted hd,
    clampDb_of_min_nan, clampDb_of_max_nan⟩
  refine ⟨fpLe_min_clampDb hord hd, fpLe_clampDb_max hord hd, fun hlow => ?below, fun hhigh => ?above,
    fun hlow hhigh => ?between⟩
  case below => exact clampDb_of_below hlow (fpLt_eq_false_of_fpLe hord)
  case above => exact clampDb_of_above (fpLt_eq_false_of_fpLe (fpLe_of_fpLe_of_fpLt hord hhigh)) hhigh
  case between => exact clampDb_of_between (fpLt_eq_false_of_fpLe hlow) (fpLt_eq_false_of_fpLe hhigh)

/-- Dividing by 20 keeps the order. -/
theorem fpDiv_twenty_mono (nan : F64) {a b : F64} (hle : fpLe a b = true) :
    fpLe (fpDiv nan a f64Twenty) (fpDiv nan b f64Twenty) = true :=
  fpDiv_mono nan (by decide) (by decide) (by decide) hle

/-- Settles O40: the difference falls as the measurement grows, and the clamp and the division keep the order. -/
theorem gainExponentDecreases : Obligations.GainExponentDecreases := by
  intro nan con m₁ m₂ r h₁ h₂ hr hord hle
  refine ⟨_, _, gain_eq_pow nan con h₁ hr, gain_eq_pow nan con h₂ hr, ?falls, ?lower, ?upper⟩
  case falls => exact fpDiv_twenty_mono nan (clampDb_mono hord (fpSub_antitone nan hr h₁ h₂ hle))
  case lower => exact fpDiv_twenty_mono nan (fpLe_min_clampDb hord (fpIsNaN_fpSub nan h₂ hr))
  case upper => exact fpDiv_twenty_mono nan (fpLe_clampDb_max hord (fpIsNaN_fpSub nan h₁ hr))

/-! ### D_SET_TARGET (R87) -/

theorem exec_dSetTarget_of_configured {s : State} (hconf : s.status.configured = true) :
    exec .dSetTarget s = .next (publishTarget s) := by
  simp [exec, execDSetTarget, setTarget, whenConfigured, hconf]

/-- Settles O41: the one free pattern of the gain is a NaN. -/
theorem setTargetPublishes : Obligations.SetTargetPublishes :=
  fun s hconf => ⟨s.nans [], fpIsNaN_nans s [], exec_dSetTarget_of_configured hconf⟩

end Sys2Proof.Machine
end

section
/-! The limiter (44_dynamics.md R91): the rounding of its smoothing is too small to carry an envelope out of [0, 1], and
the limiter is all that moves the envelope, besides what sets it to 1.0. -/

namespace Sys2Proof.Machine

/-! ### Rounding -/

/-- R10: rounding keeps the order of signed ratios. -/
theorem signed_roundMag_mono {p q : Bool} {m n d : Nat} (hd : 0 < d) (h : signed p m ≤ signed q n) :
    signed p (roundMag 53 infMag m d) ≤ signed q (roundMag 53 infMag n d) :=
  signed_le_signed (roundMag_mono 52 infMag hd) (roundMag_zero ..) h

/-- A ratio at or above 0 stays there. -/
theorem signed_roundMag_nonneg {neg : Bool} {n d : Nat} (hd : 0 < d) (h : 0 ≤ signed neg n) :
    0 ≤ signed neg (roundMag 53 infMag n d) := by
  simpa [signed] using signed_roundMag_mono (p := false) (m := 0) hd h

/-- The magnitude of a value rounds to that value's pattern. -/
theorem roundMag_fpMag {a : F64} {d : Nat} (ha : fpIsNaN a = false) (hd : 0 < d) :
    roundMag 53 infMag (fpMag a * d) d = fpMagBits a := by
  rw [fpMag_eq_magUnits, roundMag_magUnits (w := 52) hd, min_eq_left (fpMagBits_le_infMag ha)]

/-- Up to 2^(w + 1 + e) the unit in the last place is at most 2^(e + 1), and rounding adds at most half of it. -/
theorem magUnits_roundMag_le {w e k inf n : Nat} (hn : n ≤ 2 ^ k) (hk : k ≤ w + 1 + e)
    (hfin : roundMag (w + 1) inf n 1 < inf) :
    magUnits w (roundMag (w + 1) inf n 1) ≤ n + 2 ^ e := by
  have hulp : 2 ^ binade (w + 1) n 1 ≤ 2 ^ (e + 1) := by
    refine Nat.pow_le_pow_right Nat.two_pos ?_
    obtain ⟨-, hzero | hbottom⟩ := binade_bounds (w := w) (n := n) Nat.one_pos
    · omega
    · rw [Nat.one_mul, ← pow_add] at hbottom
      have := (Nat.pow_le_pow_iff_right Nat.one_lt_two).1 (hbottom.trans hn)
      omega
  obtain ⟨-, herr⟩ := rne_error (n := n) (d := 1 * 2 ^ binade (w + 1) n 1) (by positivity)
  rw [magUnits_roundMag Nat.one_pos hfin]
  rw [pow_succ] at hulp
  linarith

/-! ### Values in [0, 1] -/

/-- A value in [0, 1], by IEEE comparison: -0 is one. -/
def InUnit (a : F64) : Prop := fpLe f64Zero a = true ∧ fpLe a f64One = true

theorem inUnit_iff {a : F64} : InUnit a ↔ fpIsNaN a = false ∧ 0 ≤ fpKey a ∧ fpKey a ≤ fpKey f64One := by
  have hzero : fpIsNaN f64Zero = false ∧ fpKey f64Zero = 0 := by decide
  have hone : fpIsNaN f64One = false := by decide
  simp only [InUnit, fpLe_iff, hzero, hone, true_and]
  tauto

theorem inUnit_one : InUnit f64One := by unfold InUnit; decide

/-- Both zeros lie in [0, 1]. -/
theorem inUnit_zero (neg : Bool) : InUnit (fpPack neg 0) := by cases neg <;> unfold InUnit <;> decide

theorem fpVal_one : fpVal f64One = 2 ^ 1074 := by decide +kernel

section Unit

variable (nan : F64) {a b : F64} (ha : InUnit a)
include ha

theorem InUnit.isFinite : fpIsFinite a = true := by
  obtain ⟨hnan, hlow, -⟩ := inUnit_iff.1 ha
  obtain ⟨-, hhigh⟩ := ha
  have hneg : fpIsNaN f64NegOne = false ∧ fpKey f64NegOne ≤ 0 := by decide
  exact fpIsFinite_of_unit (fpLe_iff.2 ⟨hneg.1, hnan, hneg.2.trans hlow⟩) hhigh

theorem InUnit.fpVal_bounds : 0 ≤ fpVal a ∧ fpVal a ≤ 2 ^ 1074 := by
  obtain ⟨-, hlow, hhigh⟩ := inUnit_iff.1 ha
  exact ⟨fpVal_le_of_fpKey_le (a := f64Zero) hlow, fpVal_one ▸ fpVal_le_of_fpKey_le hhigh⟩

/-- A product of two values in [0, 1] is one too, and no larger than its first factor. -/
theorem InUnit.mul (hb : InUnit b) : InUnit (fpMul nan a b) ∧ fpVal (fpMul nan a b) ≤ fpVal a := by
  obtain ⟨hnan, -, hone⟩ := inUnit_iff.1 ha
  obtain ⟨hlow, -⟩ := ha.fpVal_bounds
  obtain ⟨hlow', hhigh'⟩ := hb.fpVal_bounds
  have hpos : 0 < 2 ^ 1074 := by positivity
  have hmul := fpMul_of_finite ha.isFinite hb.isFinite nan
  have hexact : signed (fpSign a != fpSign b) (fpMag a * fpMag b) = fpVal a * fpVal b :=
    (signed_mul_signed ..).symm
  have hself : signed (fpSign a) (fpMag a * 2 ^ 1074) = fpVal a * 2 ^ 1074 := by
    rw [fpVal_eq_signed, ← natCast_two_pow]
    exact (Bool.bne_false (fpSign a) ▸ signed_mul_signed (fpSign a) false (fpMag a) (2 ^ 1074)).symm
  have hnonneg : 0 ≤ fpKey (fpMul nan a b) := by
    rw [hmul, fpKey_fpRound]
    refine signed_roundMag_nonneg hpos ?_
    rw [hexact]
    exact mul_nonneg hlow hlow'
  have hle : fpKey (fpMul nan a b) ≤ fpKey a := by
    rw [hmul, fpKey_fpRound, fpKey_eq_signed, ← roundMag_fpMag hnan hpos]
    refine signed_roundMag_mono hpos ?_
    rw [hexact, hself]
    exact mul_le_mul_of_nonneg_left hhigh' hlow
  exact ⟨inUnit_iff.2 ⟨hmul ▸ fpIsNaN_fpRound .., hnonneg, hle.trans hone⟩, fpVal_le_of_fpKey_le hle⟩

theorem InUnit.one_sub : InUnit (fpSub nan f64One a) := by
  have hfin := ha.isFinite
  obtain ⟨hlow, hhigh⟩ := ha
  have hone : fpSub nan f64One f64Zero = f64One := by
    rw [fpSub, fpAdd_of_finite (by decide) (by decide)]
    decide +kernel
  have hupper := fpSub_antitone nan (r := f64One) (by decide) (by decide) hfin hlow
  have hlower := fpSub_antitone nan (r := f64One) (by decide) hfin (by decide) hhigh
  rw [hone] at hupper
  rw [fpSub_self nan (by decide)] at hlower
  exact ⟨hlower, hupper⟩

/-- The rounding of 1 - a adds at most half a unit in the last place of 1.0. -/
theorem InUnit.fpVal_add_one_sub_le : fpVal a + fpVal (fpSub nan f64One a) ≤ 2 ^ 1074 + 2 ^ 1021 := by
  have hunit := ha.one_sub nan
  obtain ⟨hlow, hhigh⟩ := ha.fpVal_bounds
  have hsub := fpAdd_of_finite (a := f64One) (by decide) ((fpIsFinite_fpNeg a).trans ha.isFinite) nan
  rw [← fpSub, fpVal_fpNeg, fpVal_one, ← sub_eq_add_neg] at hsub
  obtain ⟨z, hz⟩ := Int.eq_ofNat_of_zero_le (sub_nonneg.2 hhigh)
  rw [hz] at hsub
  suffices hround : fpVal (fpSub nan f64One a) ≤ z + 2 ^ 1021 by
    rw [sub_eq_iff_eq_add'.1 hz, add_assoc]
    exact add_le_add_right hround _
  split at hsub
  next hzero =>
    rw [hsub, hzero, fpVal_zero, zero_add]
    exact pow_nonneg two_pos.le _
  next =>
    rw [decide_eq_false (not_lt.2 (Int.natCast_nonneg z)), Int.natAbs_natCast] at hsub
    have hfin := roundMag_lt_of_fpRound_finite (hsub ▸ hunit.isFinite)
    have hle : z ≤ 2 ^ 1074 := by zify; rw [← hz]; exact sub_le_self _ hlow
    have hround := magUnits_roundMag_le (w := 52) (e := 1021) hle le_rfl hfin
    rw [hsub, fpRound, fpVal_eq_signed, fpSign_pack, fpMag_pack _ (hfin.trans infMag_lt)]
    zify at hround
    exact hround

end Unit

/-- Half a unit in the last place above 1.0 is midway, and 1.0 is even: the sum rounds to 1.0. -/
theorem inUnit_fpAdd (nan : F64) {a b : F64} (ha : fpIsFinite a = true) (hb : fpIsFinite b = true)
    (hlow : 0 ≤ fpVal a + fpVal b) (hhigh : fpVal a + fpVal b ≤ 2 ^ 1074 + 2 ^ 1021) : InUnit (fpAdd nan a b) := by
  have hmid : roundMag 53 infMag (2 ^ 1074 + 2 ^ 1021) 1 = fpMagBits f64One := by decide +kernel
  rw [fpAdd_of_finite ha hb]
  split
  next => exact inUnit_zero _
  next =>
    refine inUnit_iff.2 ⟨fpIsNaN_fpRound .., ?_, ?_⟩
    · rw [fpKey_fpRound]
      exact signed_roundMag_nonneg Nat.one_pos (by rwa [signed_sign_natAbs])
    · have hone : fpKey f64One = signed false (fpMagBits f64One) := rfl
      rw [fpKey_fpRound, hone, ← hmid]
      refine signed_roundMag_mono Nat.one_pos ?_
      rw [signed_sign_natAbs]
      refine hhigh.trans_eq ?_
      rw [← natCast_two_pow, ← natCast_two_pow, ← Nat.cast_add]
      rfl

/-! ### The limiter step -/

section Above

variable {a b : F64} (ha : fpLe f64Zero a = true) (hlt : fpLt a b = true)
include ha hlt

/-- A value above one of at least 0 is positive. -/
theorem positive_of_fpLt : fpSign b = false ∧ fpMagBits b ≠ 0 := by
  obtain ⟨-, -, hlow⟩ := fpLe_iff.1 ha
  obtain ⟨-, -, hkey⟩ := fpLt_iff.1 hlt
  have hpos : 0 < fpKey b := hlow.trans_lt hkey
  unfold fpKey at hpos
  cases hs : fpSign b with
  | false => rw [hs] at hpos; exact ⟨rfl, by grind⟩
  | true => rw [hs] at hpos; grind

/-- Nothing lies above +inf. -/
theorem not_inf_of_fpLt : fpIsInf a = false := by
  obtain ⟨-, -, hlow⟩ := fpLe_iff.1 ha
  obtain ⟨-, hnan, hkey⟩ := fpLt_iff.1 hlt
  obtain ⟨-, hbound⟩ := fpKey_bounds hnan
  have habs : (fpKey a).natAbs = fpMagBits a := by unfold fpKey; split <;> omega
  have hlow' : 0 ≤ fpKey a := hlow
  rw [← Bool.not_eq_true, fpIsInf_iff]
  omega

end Above

theorem fpDiv_zero_left (nan : F64) {c : F64} (hc : fpIsFinite c = true) (hsign : fpSign c = false)
    (hzero : fpMagBits c ≠ 0) : fpDiv nan f64Zero c = f64Zero := by
  rw [fpDiv_eq_pack nan hc hsign hzero (by decide), show fpMagBits f64Zero = 0 by decide, quotientMag_zero]
  decide

theorem fpDiv_self (nan : F64) {c : F64} (hc : fpIsFinite c = true) (hzero : fpMagBits c ≠ 0) :
    fpDiv nan c c = f64One := by
  have hone : fpMag f64One = 2 ^ 1074 := by decide +kernel
  rw [fpDiv_of_finite hc hc nan hzero, bne_self_eq_false, fpRound, Nat.mul_comm, ← hone,
    roundMag_fpMag (by decide) (fpMag_pos hzero)]
  decide

/-- Over the threshold, the quotient lies between 0 / peak = 0 and peak / peak = 1. -/
theorem inUnit_targetReduction (nan peak : F64) {limThr : F64} (hthr : fpLe f64Zero limThr = true) :
    InUnit (targetReduction nan limThr peak) := by
  unfold targetReduction
  split
  next hover =>
    obtain ⟨hsign, hzero⟩ := positive_of_fpLt hthr hover
    obtain ⟨hthrNaN, hpeakNaN, hkey⟩ := fpLt_iff.1 hover
    cases hinf : fpIsInf peak with
    | true =>
      have hthrInf : fpIsInf limThr = false := not_inf_of_fpLt hthr hover
      simp only [fpDiv, hthrNaN, hpeakNaN, hthrInf, hinf, Bool.or_false, Bool.false_eq_true, if_false, if_true]
      exact inUnit_zero _
    | false =>
      have hfin : fpIsFinite peak = true := by simp [fpIsFinite_eq, hpeakNaN, hinf]
      have hlower := fpDiv_mono nan hfin hsign hzero hthr
      have hupper := fpDiv_mono nan hfin hsign hzero (fpLe_iff.2 ⟨hthrNaN, hpeakNaN, hkey.le⟩)
      rw [fpDiv_zero_left nan hfin hsign hzero] at hlower
      rw [fpDiv_self nan hfin hzero] at hupper
      exact ⟨hlower, hupper⟩
  next => exact inUnit_one

/-- coef * env + (1 - coef) * tr stays in [0, 1]: the products are at most coef and the rounded 1 - coef, whose sum
passes 1 by no more than the last addition rounds away. -/
theorem inUnit_smooth (nan : NaNs) {coef env tr : F64} (hcoef : InUnit coef) (henv : InUnit env) (htr : InUnit tr) :
    InUnit (smooth nan coef env tr) := by
  have hcompl := hcoef.one_sub (nan [1])
  have hround := hcoef.fpVal_add_one_sub_le (nan [1])
  obtain ⟨hold, hle⟩ := hcoef.mul (nan [0]) henv
  obtain ⟨hnew, hle'⟩ := hcompl.mul (nan [2]) htr
  obtain ⟨hlow, -⟩ := hold.fpVal_bounds
  obtain ⟨hlow', -⟩ := hnew.fpVal_bounds
  exact inUnit_fpAdd _ hold.isFinite hnew.isFinite (add_nonneg hlow hlow') ((add_le_add hle hle').trans hround)

theorem inUnit_limiterStep (nan : NaNs) {con : Consts} (peak : F64) {env : F64} (hthr : fpLe f64Zero con.limThr = true)
    (hatk : InUnit con.atkCoef) (hrel : InUnit con.relCoef) (henv : InUnit env) :
    InUnit (limiterStep nan con peak env) := by
  have htr := inUnit_targetReduction (nan [4]) peak hthr
  unfold limiterStep
  simp only
  split
  next => exact inUnit_smooth nan hatk henv htr
  next =>
    split
    next => exact inUnit_smooth nan hrel henv htr
    next => exact henv

/-! ### The envelope over a step -/

/-- The envelope stays, is set to 1.0, or takes one limiter step under the present constants. -/
def EnvelopeSteps (s t : State) : Prop :=
  t.dyn.env = s.dyn.env ∨ t.dyn.env = f64One ∨
    ∃ nan peak, t.dyn.env = limiterStep nan s.con peak s.dyn.env

section Envelope

variable {s : State}

theorem envelopeSteps_of_dyn_eq {t : State} (h : t.dyn = s.dyn) : EnvelopeSteps s t := .inl (congrArg _ h)

/-- CONFIGURE, D_FLUSH and D_RESET set the envelope to 1.0; no other command moves it. -/
theorem envelopeSteps_runCommand (c : Command) : EnvelopeSteps s (runCommand c s) := by
  cases c with
  | nop => exact envelopeSteps_of_dyn_eq rfl
  | configure fs chm1 =>
    obtain ⟨-, hrun⟩ | ⟨e, -, hrun⟩ := configure_cases fs chm1 s <;> rw [runCommand, hrun]
    · exact .inr (.inl rfl)
    · exact envelopeSteps_of_dyn_eq rfl
  | aReset => exact envelopeSteps_of_dyn_eq (sessionReset_dyn s)
  | aFinalize => exact envelopeSteps_of_dyn_eq (finalize_dyn s)
  | dSetTarget =>
    obtain ⟨-, hrun⟩ | ⟨-, hrun⟩ := whenConfigured_cases publishTarget s <;> rw [runCommand, setTarget, hrun] <;>
      exact .inl rfl
  | dFlush | dReset =>
    obtain ⟨-, hrun⟩ | ⟨-, hrun⟩ := whenConfigured_cases dynRestore s <;>
      simp only [runCommand, dynFlush, dynReset, hrun]
    · exact .inr (.inl rfl)
    · exact envelopeSteps_of_dyn_eq rfl

theorem envelopeSteps_writeReg (r : Reg) (v : Word) : EnvelopeSteps s (writeReg r v s) := by
  cases r with
  | cmd =>
    obtain ⟨c, -, hrun⟩ | ⟨e, -, hrun⟩ := dispatchCommand_cases v s <;> rw [writeReg, hrun]
    · exact envelopeSteps_runCommand c
    · exact envelopeSteps_of_dyn_eq rfl
  | blockSize =>
    obtain ⟨-, -, hrun⟩ | ⟨e, hrun⟩ := writeBlockSize_cases v s <;> rw [writeReg, hrun] <;>
      exact envelopeSteps_of_dyn_eq rfl
  | hopSize =>
    obtain ⟨-, -, hrun⟩ | ⟨e, hrun⟩ := writeHopSize_cases v s <;> rw [writeReg, hrun] <;>
      exact envelopeSteps_of_dyn_eq rfl
  | _ => exact .inl rfl

theorem envelopeSteps_memWrite (addr : Addr) (n : Nat) (v : Word) : EnvelopeSteps s (memWrite addr n v s) := by
  obtain ⟨r, -, -, hrun⟩ | ⟨pl, -, -, hrun⟩ | ⟨e, -, hrun⟩ := memWrite_cases addr n v s <;> rw [hrun]
  · exact envelopeSteps_writeReg r v
  · exact envelopeSteps_of_dyn_eq rfl
  · exact envelopeSteps_of_dyn_eq rfl

@[simp] theorem rampStep_env (nan : NaNs) (d : Dynamics) : (rampStep nan d).env = d.env := by
  obtain ⟨-, hr⟩ | ⟨-, hr⟩ | ⟨-, hr⟩ := rampStep_cases nan d <;> rw [hr]

/-- A P beat moves the envelope only by the limiter step of the frame it completes. -/
theorem envelopeSteps_playbackBeat (w : Beat) : EnvelopeSteps s (playbackBeat w s) := by
  obtain ⟨-, hrun⟩ | ⟨-, -, hrun⟩ | ⟨fmt, -, -, hrun⟩ := playbackBeat_cases w s <;> rw [hrun]
  · exact envelopeSteps_of_dyn_eq rfl
  · exact envelopeSteps_of_dyn_eq rfl
  · obtain ⟨-, hpush⟩ | ⟨-, hpush⟩ :=
      pushSampleP_cases (s.nans.part 1) fmt (dec (s.nans [0]) fmt (pBe s.ctrl) w) s <;> rw [hpush]
    · exact .inl rfl
    · exact .inr (.inr ⟨_, _, congrArg (limiterStep _ _ _) (rampStep_env ..)⟩)

theorem envelopeSteps_exec {i : Instr} {t : State} (hexec : exec i s = .next t) : EnvelopeSteps s t := by
  cases i with
  | regRead addr n =>
    cases hexec
    obtain ⟨-, -, hdyn⟩ := memRead_frame s addr n
    exact envelopeSteps_of_dyn_eq hdyn
  | regWrite addr n v => cases hexec; exact envelopeSteps_memWrite addr n v
  | aBeat w => cases hexec; exact envelopeSteps_of_dyn_eq (analysisBeat_dyn s w)
  | pBeat w => cases hexec; exact envelopeSteps_playbackBeat w
  | nop => cases hexec; exact envelopeSteps_runCommand .nop
  | configure fs chm1 => cases hexec; exact envelopeSteps_runCommand (.configure fs chm1)
  | aReset => cases hexec; exact envelopeSteps_runCommand .aReset
  | aFinalize => cases hexec; exact envelopeSteps_runCommand .aFinalize
  | dSetTarget => cases hexec; exact envelopeSteps_runCommand .dSetTarget
  | dFlush => cases hexec; exact envelopeSteps_runCommand .dFlush
  | dReset => cases hexec; exact envelopeSteps_runCommand .dReset

/-- Hardware reset sets the envelope to 1.0; taking a word and an idle step keep it. -/
theorem envelopeSteps_step {t : State} (hstep : step s = .next t) : EnvelopeSteps s t := by
  obtain ⟨-, hrun⟩ | ⟨e, rest, i, -, -, hrun⟩ | ⟨rest, -, hrun⟩ | ⟨rest, -, hrun⟩ := step_cases s <;> rw [hrun] at hstep
  · cases hstep; exact .inl rfl
  · exact envelopeSteps_exec (s := { s with events := rest }) hstep
  · cases hstep; exact .inl rfl
  · cases hstep; exact .inr (.inl rfl)

end Envelope

/-- Settles O47: the limiter step stays in [0, 1], and a step of the machine takes one of them or none. -/
theorem envelopeStaysInUnitRange : Obligations.EnvelopeStaysInUnitRange := by
  refine ⟨fun nan con peak env hthr ha ha' hr hr' he he' =>
    inUnit_limiterStep nan peak hthr ⟨ha, ha'⟩ ⟨hr, hr'⟩ ⟨he, he'⟩, fun s t hthr ha ha' hr hr' he he' hstep => ?_⟩
  change InUnit t.dyn.env
  obtain henv | henv | ⟨nan, peak, henv⟩ := envelopeSteps_step hstep <;> rw [henv]
  · exact ⟨he, he'⟩
  · exact inUnit_one
  · exact inUnit_limiterStep nan peak hthr ⟨ha, ha'⟩ ⟨hr, hr'⟩ ⟨he, he'⟩

/-! ### A settled envelope -/

/-- A target reduction equal to the envelope moves it neither way. -/
theorem limiterStep_of_fpEq (nan : NaNs) {con : Consts} {peak env : F64}
    (h : fpEq (targetReduction (nan [4]) con.limThr peak) env = true) : limiterStep nan con peak env = env := by
  simp only [fpEq, Bool.and_eq_true, decide_eq_true_eq] at h
  obtain ⟨-, hkey⟩ := h
  simp [limiterStep, fpLt, hkey]

theorem limiterStep_of_below (nan : NaNs) {con : Consts} {peak : F64} (h : fpLt con.limThr peak = false) :
    limiterStep nan con peak f64One = f64One := by
  refine limiterStep_of_fpEq nan ?_
  rw [targetReduction, if_neg (Bool.eq_false_iff.1 h)]
  decide

/-- Settles O46: without a peak over the threshold the target reduction is 1.0, which an envelope of 1.0 equals. -/
theorem limiterKeepsSettledEnvelope : Obligations.LimiterKeepsSettledEnvelope := by
  refine ⟨fun nan con peak => limiterStep_of_below nan, fun nan con peak env hover heq => ?_⟩
  refine limiterStep_of_fpEq nan ?_
  rwa [targetReduction, if_pos hover]

end Sys2Proof.Machine
end

section
/-! The P port and the commands of the dynamics engine (44_dynamics.md): what becomes of a beat (R88), the ramp over the
frames (R89, R90), D_FLUSH and D_RESET (R94, R95), and the bits of STATUS with ACTIVE among them (R96). -/

namespace Sys2Proof.Machine

/-! ### A beat of the P port (R88) -/

theorem pFmt_unsupported_iff (ctrl : Word) : sampleFormat (pFmt ctrl) = none ↔ ctrl.getLsbD 6 = true := by
  simp [sampleFormat_eq_none_iff, pFmt]

section Beat

variable {s : State} {w : Beat} {fmt : SampleFormat}

theorem exec_pBeat_of_unconfigured (hconf : s.status.configured = false) :
    exec (.pBeat w) s = .next (passThrough .pPass w s) := by
  simp [exec, execPBeat, playbackBeat, hconf]

theorem exec_pBeat_of_unsupported (hconf : s.status.configured = true) (hfmt : sampleFormat (pFmt s.ctrl) = none) :
    exec (.pBeat w) s = .next (passThrough .unsup w s) := by
  simp [exec, execPBeat, playbackBeat, hconf, hfmt]

theorem exec_pBeat_of_taken (hconf : s.status.configured = true) (hfmt : sampleFormat (pFmt s.ctrl) = some fmt) :
    exec (.pBeat w) s =
      .next (pushSampleP (s.nans.part 1) fmt (dec (s.nans [0]) fmt (pBe s.ctrl) w) s).bumpNaN := by
  simp [exec, execPBeat, playbackBeat, hconf, hfmt]

end Beat

section Push

variable (nan : NaNs) (fmt : SampleFormat) (x : F64) {s : State}

theorem pushSampleP_of_partial (hpart : s.dyn.part.length + 1 ≠ s.cfg.ch.toNat) :
    pushSampleP nan fmt x s = { s with dyn := { s.dyn with part := s.dyn.part ++ [x] } } := by
  obtain ⟨-, hpush⟩ | ⟨hfull, -⟩ := pushSampleP_cases nan fmt x s
  · exact hpush
  · exact absurd hfull hpart

theorem pushSampleP_of_frame (hfull : s.dyn.part.length + 1 = s.cfg.ch.toNat) :
    pushSampleP nan fmt x s =
      processFrame nan fmt (s.dyn.part ++ [x]) { s with dyn := { s.dyn with part := [] } } := by
  obtain ⟨hpart, -⟩ | ⟨-, hpush⟩ := pushSampleP_cases nan fmt x s
  · exact absurd hfull hpart
  · exact hpush

end Push

/-- Settles O42: the beat is taken, and its sample does not complete the frame. -/
theorem pBeatHoldsSample : Obligations.PBeatHoldsSample := by
  intro s w fmt hconf hfmt hpart
  refine ⟨s.nans [0], fpIsNaN_nans s [0], ?_⟩
  rw [exec_pBeat_of_taken hconf hfmt, pushSampleP_of_partial _ _ _ hpart]
  rfl

/-- Settles O44: the two ways a beat passes through, in the order of R88's tests. -/
theorem pBeatPassesThrough : Obligations.PBeatPassesThrough := fun s _ =>
  ⟨exec_pBeat_of_unconfigured, fun hconf hbit =>
    exec_pBeat_of_unsupported hconf ((pFmt_unsupported_iff s.ctrl).2 hbit)⟩

/-! ### A frame (R89 to R91) -/

/-- The ramp step in one equation: the count falls to no less than 0, and its last step lands on the target. -/
theorem rampStep_eq (nan : NaNs) (d : Dynamics) :
    rampStep nan d =
      { d with
        remain := BitVec.ofNat 64 (d.remain.toNat - 1)
        curGain := if d.remain.toNat ≤ 1 then d.tgtGain
          else fpAdd (nan [2]) d.curGain
            (fpDiv (nan [1]) (fpSub (nan [0]) d.tgtGain d.curGain) (fpOfNat d.remain.toNat)) } := by
  obtain ⟨hremain, hrun⟩ | ⟨hremain, hrun⟩ | ⟨hremain, hrun⟩ := rampStep_cases nan d <;> rw [hrun]
  · rw [hremain]; cases d; cases hremain; rfl
  · rw [hremain]; rfl
  · have hcount : d.remain - 1#64 = BitVec.ofNat 64 (d.remain.toNat - 1) := by bv_omega
    rw [if_neg (not_le.2 hremain), hcount]

/-- The places of a frame's operations in the model, in the order in which the obligation numbers them: the decoding,
the ramp, the peak, the limiter, the outputs. -/
def framePaths : List (List Nat) :=
  [[0]] ++ [[1, 0, 0], [1, 0, 1], [1, 0, 2]] ++ [[1, 2]] ++
    [[1, 1, 4], [1, 1, 0], [1, 1, 1], [1, 1, 2], [1, 1, 3]] ++ [[1, 3]]

/-- Settles O43: each step of the frame is its expression in the spec's order, once the NaNs are numbered by their
operations. -/
theorem pBeatProcessesFrame : Obligations.PBeatProcessesFrame := by
  intro s w fmt hconf hfmt hfull
  refine ⟨fun j => s.nans (framePaths.getD j []), _, _, _, _, _, fun _ => fpIsNaN_nans s _, rfl, rfl, rfl, rfl, rfl, ?_⟩
  rw [exec_pBeat_of_taken hconf hfmt, pushSampleP_of_frame _ _ _ hfull, processFrame, processDyn, rampStep_eq]
  rfl

/-! ### The ramp over the frames (R90) -/

section Ramp

variable (nan : NaNs) (con : Consts) (x : List F64) (d : Dynamics)

theorem processDyn_remain : (processDyn nan con x d).remain = BitVec.ofNat 64 (d.remain.toNat - 1) := by
  rw [processDyn, rampStep_eq]

theorem processDyn_curGain_of_last (hlast : d.remain.toNat ≤ 1) : (processDyn nan con x d).curGain = d.tgtGain := by
  rw [processDyn, rampStep_eq]
  exact if_pos hlast

end Ramp

/-- Settles O45: each frame counts down by one, and the frame that finds a count of at most 1 lands on the target. -/
theorem rampReachesTarget : Obligations.RampReachesTarget := by
  intro frames
  induction frames with
  | nil => exact fun d hlen => absurd hlen (by simp)
  | cons f fs ih =>
    intro d hlen
    obtain ⟨nan, con, x⟩ := f
    have hremain := processDyn_remain nan con x d
    rw [List.length_cons, max_le_iff] at hlen
    obtain ⟨-, hlen⟩ := hlen
    rw [List.foldl_cons]
    cases fs with
    | nil =>
      have hlast : d.remain.toNat ≤ 1 := hlen
      refine ⟨processDyn_curGain_of_last nan con x d hlast, processDyn_tgtGain .., hremain.trans ?_⟩
      rw [Nat.sub_eq_zero_of_le hlast]
    | cons f' fs' =>
      have hrest : max 1 (processDyn nan con x d).remain.toNat ≤ (f' :: fs').length := by
        rw [hremain, toNat_ofNat_of_lt (by omega)]
        exact max_le (Nat.succ_pos _) (Nat.sub_le_of_le_add hlen)
      rw [← processDyn_tgtGain nan con x d]
      exact ih _ hrest

/-! ### D_FLUSH and D_RESET (R94, R95) -/

theorem dynRestore_eq (s : State) :
    dynRestore s =
      { s with
        status := { s.status with partDrop := s.status.partDrop || decide (s.dyn.part ≠ []) }
        dyn := { s.dyn with
          part := [], curGain := f64One, env := f64One
          remain := if s.status.tgtSet = true then s.cfg.rampFrames else 0#64 } } := by
  rw [dynRestore, Status.raiseIf_nonempty_partDrop]

theorem exec_dFlush_of_configured {s : State} (hconf : s.status.configured = true) :
    exec .dFlush s = .next (dynRestore s) := by
  simp [exec, execDFlush, dynFlush, whenConfigured, hconf]

/-- Settles O48: both opcodes restore, under the same check. -/
theorem flushAndResetRestore : Obligations.FlushAndResetRestore := by
  intro s i hi
  have hexec : exec i s = .next (whenConfigured dynRestore s) := by
    simp only [List.mem_cons, List.not_mem_nil, or_false] at hi
    obtain rfl | rfl := hi <;> rfl
  rw [hexec]
  obtain ⟨hconf, hrun⟩ | ⟨hconf, hrun⟩ := whenConfigured_cases dynRestore s <;> rw [hrun]
  · exact ⟨fun _ => congrArg _ (dynRestore_eq s), fun hno => absurd (hconf.symm.trans hno) (by decide)⟩
  · exact ⟨fun hyes => absurd (hconf.symm.trans hyes) (by decide), fun _ => rfl⟩

/-! ### STATUS and ACTIVE (R23, R96) -/

theorem active_iff (s : State) :
    active s = true ↔ s.status.tgtSet = true ∧
      ¬ (fpEq s.dyn.curGain f64One = true ∧ fpEq s.dyn.tgtGain f64One = true ∧ fpEq s.dyn.env f64One = true ∧
        s.dyn.remain = 0#64) := by
  simp only [active, Bool.and_eq_true, Bool.not_eq_true', Bool.and_eq_false_iff, beq_eq_false_iff_ne]
  grind

theorem active_of_ramp {s : State} (htgt : s.status.tgtSet = true) (hramp : s.dyn.remain ≠ 0#64) : active s = true :=
  (active_iff s).2 ⟨htgt, fun ⟨_, _, _, hzero⟩ => hramp hzero⟩

theorem active_of_no_target {s : State} (htgt : s.status.tgtSet = false) : active s = false := by
  simp [active, htgt]

/-- A bit is a field of one bit. -/
theorem getLsbD_of_extractLsb' {x : Word} {i : Nat} {b : Bool} (h : x.extractLsb' i 1 = BitVec.ofBool b) :
    x.getLsbD i = b := by
  simpa using congrArg (fun y => y.getLsbD 0) h

theorem statusWord_active (s : State) : (statusWord s).getLsbD 4 = active s := by
  refine getLsbD_of_extractLsb' ?_
  unfold statusWord
  simp (disch := decide) only [BitVec.extractLsb'_append_eq_of_add_le, BitVec.extractLsb'_append_eq_of_le,
    BitVec.extractLsb'_eq_self, Nat.reduceSub]

theorem statusWord_sticky (s : State) (b : Sticky) : (statusWord s).getLsbD b.bit = s.status.get b := by
  refine getLsbD_of_extractLsb' ?_
  unfold statusWord
  cases b <;>
    simp (disch := decide) only [BitVec.extractLsb'_append_eq_of_add_le, BitVec.extractLsb'_append_eq_of_le,
      BitVec.extractLsb'_eq_self, Nat.reduceSub, Sticky.bit, Status.get]

/-- Settles O13: each remaining field is read off the concatenation. -/
theorem statusWordBits : Obligations.StatusWordBits := by
  intro s
  rw [← active_iff, statusWord_active]
  refine ⟨getLsbD_of_extractLsb' ?_, getLsbD_of_extractLsb' ?_, getLsbD_of_extractLsb' ?_, getLsbD_of_extractLsb' ?_,
    Iff.rfl, ?_, statusWord_sticky s, ?_, ?_, ?_⟩ <;>
  · unfold statusWord
    simp (disch := decide) only [BitVec.extractLsb'_append_eq_of_add_le, BitVec.extractLsb'_append_eq_of_le,
      BitVec.extractLsb'_eq_self, Nat.sub_self, Nat.reduceSub]

/-- Settles O49: CONFIGURE takes the target away, and the others leave it with a count of RAMP_FRAMES. -/
theorem activeFollowsTheTarget : Obligations.ActiveFollowsTheTarget := by
  refine ⟨fun fs chm1 s hok => ⟨_, exec_configure_of_accepted hok, ?_⟩, fun s hconf hramp =>
    ⟨⟨_, exec_dSetTarget_of_configured hconf, ?_⟩, fun htgt => ⟨_, exec_dFlush_of_configured hconf, ?_⟩⟩⟩ <;>
    rw [statusWord_active]
  · exact active_of_no_target rfl
  · exact active_of_ramp rfl hramp
  · rw [dynRestore_eq]
    exact active_of_ramp htgt (by rwa [if_pos htgt])

end Sys2Proof.Machine
end

section
/-! The words the dynamics engine emits (30_encoding.md R57, R60; 44_dynamics.md R93, R97): what CLAMP gives, and what
encoding does to a value within full scale. -/

namespace Sys2Proof.Machine

/-! ### Values within full scale -/

/-- A value in [-1, 1], by IEEE comparison. -/
def InFullScale (v : F64) : Prop := fpLe f64NegOne v = true ∧ fpLe v f64One = true

theorem natAbs_signed (neg : Bool) (n : Nat) : (signed neg n).natAbs = n := by cases neg <;> simp [signed]

/-- The order of the values is that of the keys. -/
theorem fpLe_of_fpVal_le {a b : F64} (ha : fpIsNaN a = false) (hb : fpIsNaN b = false) (h : fpVal a ≤ fpVal b) :
    fpLe a b = true := by
  refine fpLe_iff.2 ⟨ha, hb, ?_⟩
  rw [fpKey_eq_signed, fpKey_eq_signed, ← roundMag_fpMag ha Nat.one_pos, ← roundMag_fpMag hb Nat.one_pos]
  refine signed_roundMag_mono Nat.one_pos ?_
  rwa [Nat.mul_one, Nat.mul_one]

theorem inFullScale_iff {v : F64} : InFullScale v ↔ fpIsFinite v = true ∧ fpMag v ≤ 2 ^ 1074 := by
  have hnegOne : fpVal f64NegOne = -2 ^ 1074 := by decide +kernel
  have hmag : (fpVal v).natAbs = fpMag v := natAbs_signed ..
  have habs : fpMag v ≤ 2 ^ 1074 ↔ fpVal f64NegOne ≤ fpVal v ∧ fpVal v ≤ fpVal f64One := by
    rw [hnegOne, fpVal_one, ← abs_le, Int.abs_eq_natAbs, hmag, ← natCast_two_pow, Nat.cast_le]
  rw [habs]
  refine ⟨fun ⟨hlow, hhigh⟩ => ?_, fun ⟨hfin, hlow, hhigh⟩ => ?_⟩
  · obtain ⟨-, -, hlow'⟩ := fpLe_iff.1 hlow
    obtain ⟨-, -, hhigh'⟩ := fpLe_iff.1 hhigh
    exact ⟨fpIsFinite_of_unit hlow hhigh, fpVal_le_of_fpKey_le hlow', fpVal_le_of_fpKey_le hhigh'⟩
  · obtain ⟨hnan, -⟩ := not_nan_not_inf_of_finite hfin
    exact ⟨fpLe_of_fpVal_le (by decide) hnan hlow, fpLe_of_fpVal_le hnan (by decide) hhigh⟩

theorem InFullScale.isFinite {v : F64} (hv : InFullScale v) : fpIsFinite v = true :=
  fpIsFinite_of_unit hv.1 hv.2

/-! ### CLAMP (R93) -/

section Clamp

variable {v : F64}

theorem clampOut_of_nan (h : fpIsNaN v = true) : clampOut v = f64Zero := if_pos h

theorem clampOut_of_above (h : fpLt f64One v = true) : clampOut v = f64One := by
  obtain ⟨-, hnan, -⟩ := fpLt_iff.1 h
  simp [clampOut, hnan, h]

theorem clampOut_of_below (h : fpLt v f64NegOne = true) : clampOut v = f64NegOne := by
  obtain ⟨hnan, -, hkey⟩ := fpLt_iff.1 h
  have hbelow : fpLe v f64One = true := fpLe_iff.2 ⟨hnan, by decide, hkey.le.trans (by decide)⟩
  have habove := fpLt_eq_false_of_fpLe hbelow
  simp [clampOut, hnan, habove, h]

theorem clampOut_of_inFullScale (h : InFullScale v) : clampOut v = v := by
  obtain ⟨hlow, hhigh⟩ := h
  obtain ⟨hnan, -, -⟩ := fpLe_iff.1 hhigh
  simp [clampOut, hnan, fpLt_eq_false_of_fpLe hlow, fpLt_eq_false_of_fpLe hhigh]

theorem inFullScale_clampOut (v : F64) : InFullScale (clampOut v) := by
  unfold clampOut
  split
  next => unfold InFullScale; decide
  next hnan =>
    have hnan : fpIsNaN v = false := Bool.eq_false_iff.2 hnan
    split
    next => unfold InFullScale; decide
    next habove =>
      split
      next => unfold InFullScale; decide
      next hbelow =>
        exact ⟨fpLe_of_not_fpLt (by decide) hnan (Bool.eq_false_iff.2 hbelow),
          fpLe_of_not_fpLt hnan (by decide) (Bool.eq_false_iff.2 habove)⟩

end Clamp

/-! ### Containers -/

/-- R57: the raw bits of a placed sample are its low n bytes. -/
theorem rawSample_placeSample (fmt : SampleFormat) (be : Bool) {r : Nat} (hr : r < 256 ^ fmt.bytes) :
    rawSample fmt be (placeSample fmt be r) = r ∧ (placeSample fmt be r).toNat < 256 ^ fmt.bytes := by
  have hlen : (byteOrder be (leBytes fmt.bytes r)).length = fmt.bytes := by rw [length_byteOrder, leBytes_length]
  have hlt := leNat_lt (byteOrder be (leBytes fmt.bytes r))
  have hbytes := leBytes_leNat (byteOrder be (leBytes fmt.bytes r))
  rw [hlen] at hlt hbytes
  have hfit : 256 ^ fmt.bytes ≤ 256 ^ 4 := Nat.pow_le_pow_right (by decide) fmt.bytes_le_four
  have hplace : (placeSample fmt be r).toNat = leNat (byteOrder be (leBytes fmt.bytes r)) :=
    toNat_ofNat_of_lt (hlt.trans_le hfit)
  rw [rawSample, hplace, hbytes, byteOrder_byteOrder, leNat_leBytes, Nat.mod_eq_of_lt hr]
  exact ⟨rfl, hlt⟩

/-! ### Integer formats (R60) -/

/-- `rne` stays within half a unit, and midway it is even. -/
theorem rne_within_half {d : Nat} (hd : 0 < d) (n : Nat) :
    2 * (((rne n d * d : Nat) : Int) - n).natAbs ≤ d ∧
      (2 * (((rne n d * d : Nat) : Int) - n).natAbs = d → rne n d % 2 = 0) := by
  obtain ⟨hlow, hhigh⟩ := rne_error (n := n) hd
  rw [Nat.add_mul, Nat.mul_assoc, Nat.one_mul] at hlow
  rw [Nat.mul_assoc] at hhigh
  refine ⟨by generalize rne n d * d = p at *; omega, fun htie => ?_⟩
  obtain ⟨c, hc⟩ : ∃ c, 2 * n = 2 * (c * d) + d := by
    rcases lt_or_ge n (rne n d * d) with hup | hdown
    · obtain ⟨c, hc⟩ := Nat.exists_eq_add_one.2 (pos_of_mul_pos_left (Nat.zero_lt_of_lt hup) (Nat.zero_le d))
      rw [hc, Nat.succ_mul c d] at htie hup
      refine ⟨c, ?_⟩
      generalize c * d = p at *
      omega
    · refine ⟨rne n d, ?_⟩
      generalize rne n d * d = p at *
      omega
  exact rne_even_of_midway (c := c) hd (by rw [hc]; ring)

/-- `rne` does not pass a natural at or above the ratio. -/
theorem rne_le_of_le_mul {n d c : Nat} (hd : 0 < d) (h : n ≤ c * d) : rne n d ≤ c := by
  obtain ⟨-, hhigh⟩ := rne_error (n := n) hd
  have : 2 * rne n d * d ≤ (2 * c + 1) * d := by linarith
  have := Nat.le_of_mul_le_mul_right this hd
  omega

/-- Two's complement: the raw bits of a code in range stand for that code. -/
theorem signedRaw_emod {n : Nat} (hn : 0 < n) {z : Int} (hlow : -(fullScale n : Int) ≤ z) (hhigh : z < fullScale n) :
    signedRaw n (z % (256 ^ n : Nat)).toNat = z := by
  have hfull := two_mul_fullScale hn
  unfold signedRaw
  generalize 256 ^ n = m at hfull ⊢
  rcases lt_or_ge z 0 with hneg | hpos
  · rw [← Int.add_emod_right z m, Int.emod_eq_of_lt (by omega) (by omega), if_neg (by omega)]
    omega
  · rw [Int.emod_eq_of_lt hpos (by omega), if_pos (by omega)]
    omega

/-- A sign keeps a number even. -/
theorem signed_even (neg : Bool) {n : Nat} (h : n % 2 = 0) : signed neg n % 2 = 0 := by
  cases neg <;> simp only [signed] <;> grind

/-- R60: the rounded code is nearest to the scaled value, and the even one of two. -/
theorem fpRneInt_nearest (v : F64) (k : Nat) :
    2 * (fpRneInt v k * 2 ^ 1074 - fpVal v * 2 ^ k).natAbs ≤ 2 ^ 1074 ∧
      (2 * (fpRneInt v k * 2 ^ 1074 - fpVal v * 2 ^ k).natAbs = 2 ^ 1074 → fpRneInt v k % 2 = 0) := by
  have hpow : ∀ j : Nat, (2 : Int) ^ j = signed false (2 ^ j) := fun j => (natCast_two_pow j).symm
  have hcode : fpRneInt v k = signed (fpSign v) (rne (fpMag v * 2 ^ k) (2 ^ 1074)) := rfl
  have hpos : 0 < 2 ^ 1074 := by positivity
  obtain ⟨hhalf, heven⟩ := rne_within_half hpos (fpMag v * 2 ^ k)
  rw [hcode, fpVal_eq_signed, hpow, hpow, signed_mul_signed, signed_mul_signed, natAbs_signed_sub_signed]
  exact ⟨hhalf, fun htie => signed_even _ (heven htie)⟩

section Encode

variable {n : Nat} (hn : 0 < n) {v : F64} (hv : InFullScale v)
include hv

theorem fpRneInt_bounds (n : Nat) :
    -(fullScale n : Int) ≤ fpRneInt v (8 * n - 1) ∧ fpRneInt v (8 * n - 1) ≤ fullScale n := by
  obtain ⟨-, hmag⟩ := inFullScale_iff.1 hv
  refine signed_bounds _ (rne_le_of_le_mul (by positivity) ?_)
  rw [Nat.mul_comm]
  exact Nat.mul_le_mul_left _ hmag

include hn

/-- R60: the raw bits stand for the rounded code, saturated at the largest one. -/
theorem signedRaw_encInt :
    encInt n v < 256 ^ n ∧ signedRaw n (encInt n v) = min (fpRneInt v (8 * n - 1)) (fullScale n - 1) := by
  obtain ⟨hlow, -⟩ := fpRneInt_bounds hv n
  have hfull := two_mul_fullScale hn
  have hpos : 0 < 256 ^ n := by positivity
  have hmin : encInt n v = (min (fpRneInt v (8 * n - 1)) (fullScale n - 1) % (256 ^ n : Nat)).toNat := by
    rw [encInt, min_def]
    congr 2
    grind
  rw [hmin, signedRaw_emod hn (by omega) (by omega)]
  refine ⟨?_, rfl⟩
  have := Int.emod_lt_of_pos (min (fpRneInt v (8 * n - 1)) (fullScale n - 1)) (Int.natCast_pos.2 hpos)
  have := Int.emod_nonneg (min (fpRneInt v (8 * n - 1)) (fullScale n - 1)) (Int.natCast_ne_zero.2 hpos.ne')
  omega

end Encode

/-- R60 for an integer format, with the raw bits of the encoded beat read as the bit vectors `little` and `big`, one for
each byte order. -/
theorem enc_int_nearest {fmt : SampleFormat} {N : Nat} {v : F64} {be : Bool} {little big : BitVec N} (hint : fmt ≠ .f32)
    (hN : N = 8 * fmt.bytes) (hv : InFullScale v) (hlittle : rawSample fmt false (enc fmt be v) = little.toNat)
    (hbig : rawSample fmt true (enc fmt be v) = big.toNat) :
    ∃ q : Int, 2 * (q * 2 ^ 1074 - fpVal v * 2 ^ (N - 1)).natAbs ≤ 2 ^ 1074 ∧
      (2 * (q * 2 ^ 1074 - fpVal v * 2 ^ (N - 1)).natAbs = 2 ^ 1074 → q % 2 = 0) ∧
      (enc fmt be v).toNat < 2 ^ N ∧ (if be then big.toInt else little.toInt) = min q (2 ^ (N - 1) - 1) := by
  obtain ⟨hnear, heven⟩ := fpRneInt_nearest v (N - 1)
  obtain ⟨hlt, hcode⟩ := signedRaw_encInt fmt.bytes_pos hv
  obtain ⟨hraw, hfit⟩ := rawSample_placeSample fmt be hlt
  rw [← enc_int hint] at hraw hfit
  refine ⟨_, hnear, heven, by rwa [hN, two_pow_eight_mul], ?_⟩
  have hbits : (if be then big.toInt else little.toInt) = signedRaw fmt.bytes (rawSample fmt be (enc fmt be v)) := by
    cases be with
    | false => exact hlittle ▸ (signedRaw_toNat hN little).symm
    | true => exact hbig ▸ (signedRaw_toNat hN big).symm
  rw [hbits, hraw, hcode, hN, fullScale, natCast_two_pow]

/-! ### Binary32 (R60) -/

/-- R57: decoding an encoded binary32 beat widens the narrowed value. -/
theorem dec_enc_f32 (nan : F64) (be : Bool) (v : F64) : dec nan .f32 be (enc .f32 be v) = fpOfF32 nan (fpToF32 v) := by
  obtain ⟨hraw, -⟩ := rawSample_placeSample .f32 be (r := (fpToF32 v).toNat) (fpToF32 v).isLt
  rw [dec, enc, hraw, BitVec.ofNat_toNat, BitVec.setWidth_eq]

section Narrow

variable {v : F64}

theorem fpToF32_toNat (hfin : fpIsFinite v = true) :
    (fpToF32 v).toNat = (fpSign v).toNat * 2 ^ 31 + roundMag 24 infMag32 (fpMag v) (2 ^ 925) := by
  obtain ⟨-, hinf⟩ := not_nan_not_inf_of_finite hfin
  have hlt : roundMag 24 infMag32 (fpMag v) (2 ^ 925) < 2 ^ 31 := (roundMag_le_inf ..).trans_lt (by decide)
  rw [fpToF32, hinf, if_neg Bool.false_ne_true, BitVec.toNat_append, toNat_ofNat_of_lt hlt, BitVec.toNat_ofBool,
    ← Nat.shiftLeft_add_eq_or_of_lt hlt, Nat.shiftLeft_eq]

/-- The bits below the sign are the rounded magnitude. -/
theorem fpToF32_mod (hfin : fpIsFinite v = true) :
    (fpToF32 v).toNat % 2 ^ 31 = roundMag 24 infMag32 (fpMag v) (2 ^ 925) := by
  have hlt : roundMag 24 infMag32 (fpMag v) (2 ^ 925) < 2 ^ 31 := (roundMag_le_inf ..).trans_lt (by decide)
  rw [fpToF32_toNat hfin, Nat.mul_add_mod_self_right, Nat.mod_eq_of_lt hlt]

@[simp] theorem fpToF32_sign (v : F64) : (fpToF32 v).getLsbD 31 = fpSign v := by
  rw [fpToF32, BitVec.getLsbD_append]
  simp

/-- A value within full scale narrows to at most 1.0, in its magnitude. -/
theorem roundMag_f32_le_one (hv : InFullScale v) : roundMag 24 infMag32 (fpMag v) (2 ^ 925) ≤ 127 * 2 ^ 23 := by
  obtain ⟨-, hmag⟩ := inFullScale_iff.1 hv
  have hone : roundMag 24 infMag32 (2 ^ 1074) (2 ^ 925) = 127 * 2 ^ 23 := by decide +kernel
  exact hone ▸ roundMag_mono 23 infMag32 (by positivity) hmag

end Narrow

/-- Where `m` is a nearest magnitude to `n` under its sign, another value as near has another magnitude as near: the
opposite signs of one magnitude are equally near to 0 only. -/
theorem natAbs_sub_eq_of_tie {p q : Bool} {c m n : Nat} (hnear : ((m : Int) - n).natAbs ≤ ((c : Int) - n).natAbs)
    (hzero : n = 0 → m = 0) (htie : (signed q m - signed q n).natAbs = (signed p c - signed q n).natAbs)
    (hne : signed p c ≠ signed q m) : ((m : Int) - n).natAbs = ((c : Int) - n).natAbs ∧ c ≠ m := by
  cases p <;> cases q <;> simp only [signed] at * <;> grind

/-- A finite decoded binary32 is a magnitude of 24 bits or fewer under a sign. -/
theorem exists_fpVal_dec_f32 {nan : F64} {be : Bool} {o : Beat} (hnan : fpIsNaN nan = true)
    (hfin : fpIsFinite (dec nan .f32 be o) = true) :
    ∃ p b, fpVal (dec nan .f32 be o) = signed p (magUnits 23 b * 2 ^ 925) := by
  obtain ⟨u, hu⟩ : ∃ u, dec nan .f32 be o = fpOfF32 nan u := ⟨_, rfl⟩
  rw [hu] at hfin ⊢
  obtain ⟨-, -, hmag⟩ := fpOfF32_exact (nan := nan) (f32Exp_ne_of_finite hnan hfin)
  rw [fpVal_eq_signed, hmag, f32Mag_eq_magUnits]
  exact ⟨_, _, rfl⟩

/-- Bit 0 of the encoded binary32 stands in its beat's first byte, or in the last one in big-endian order. -/
theorem enc_f32_lowest_bit (be : Bool) (v : F64) :
    (enc .f32 be v).getLsbD (if be then 24 else 0) = (fpToF32 v).getLsbD 0 := by
  obtain ⟨hraw, -⟩ := rawSample_placeSample .f32 be (r := (fpToF32 v).toNat) (fpToF32 v).isLt
  cases be with
  | false =>
    have hword : enc .f32 false v = fpToF32 v := BitVec.eq_of_toNat_eq ((rawSample_littleEndian_s32 _).symm.trans hraw)
    rw [hword]
    rfl
  | true =>
    obtain ⟨-, -, hbig⟩ := rawSample_bigEndian (enc .f32 true v)
    rw [← BitVec.eq_of_toNat_eq (hbig.symm.trans hraw), BitVec.getLsbD_append]
    simp

section Binary32

variable {v : F64} (hv : InFullScale v)
include hv

/-- The value an encoded binary32 stands for: the rounded magnitude under the sign of the value. -/
theorem fpOfF32_fpToF32 (nan : F64) :
    fpIsFinite (fpOfF32 nan (fpToF32 v)) = true ∧ fpSign (fpOfF32 nan (fpToF32 v)) = fpSign v ∧
      fpMag (fpOfF32 nan (fpToF32 v)) = magUnits 23 (roundMag 24 infMag32 (fpMag v) (2 ^ 925)) * 2 ^ 925 := by
  have hbits := fpToF32_mod hv.isFinite
  have hle := roundMag_f32_le_one hv
  have hexp : f32Exp (fpToF32 v) ≠ 255 := by unfold f32Exp; omega
  obtain ⟨hfin', hsign, hmag⟩ := fpOfF32_exact (nan := nan) hexp
  rw [f32Mag_eq_magUnits, hbits] at hmag
  exact ⟨hfin', hsign.trans (fpToF32_sign v), hmag⟩

/-- R60: no binary32 is nearer to the value than the encoded one, and one of another value is as near only where the
encoded one is even. -/
theorem dec_enc_f32_nearest {nan : F64} {be : Bool} {o : Beat} (hnan : fpIsNaN nan = true)
    (hfin : fpIsFinite (dec nan .f32 be o) = true) :
    (fpVal (dec nan .f32 be (enc .f32 be v)) - fpVal v).natAbs ≤ (fpVal (dec nan .f32 be o) - fpVal v).natAbs ∧
      ((fpVal (dec nan .f32 be (enc .f32 be v)) - fpVal v).natAbs = (fpVal (dec nan .f32 be o) - fpVal v).natAbs →
        fpVal (dec nan .f32 be o) ≠ fpVal (dec nan .f32 be (enc .f32 be v)) →
        roundMag 24 infMag32 (fpMag v) (2 ^ 925) % 2 = 0) := by
  have hpos : 0 < 2 ^ 925 := by positivity
  have hround : roundMag 24 infMag32 (fpMag v) (2 ^ 925) < infMag32 := (roundMag_f32_le_one hv).trans_lt (by decide)
  obtain ⟨p, b, hother⟩ := exists_fpVal_dec_f32 hnan hfin
  obtain ⟨-, hsign, hmag⟩ := fpOfF32_fpToF32 hv nan
  have hnear := roundMag_nearest (w := 23) hpos hround b
  have heven := roundMag_even_of_tie (w := 23) (m := b) (by decide) hpos hround
  rw [← Nat.cast_mul, ← Nat.cast_mul] at hnear heven
  rw [dec_enc_f32, hother, fpVal_eq_signed, fpVal_eq_signed v, hsign, hmag]
  refine ⟨?_, fun htie hne => ?_⟩
  · rw [natAbs_signed_sub_signed]
    exact hnear.trans (natAbs_sub_le_signed ..)
  · have hzero : fpMag v = 0 → magUnits 23 (roundMag 24 infMag32 (fpMag v) (2 ^ 925)) * 2 ^ 925 = 0 := by
      intro hv0
      rw [hv0]
      decide +kernel
    obtain ⟨htie', hne'⟩ := natAbs_sub_eq_of_tie hnear hzero htie hne
    exact heven htie' fun hb => hne' (by rw [hb])

end Binary32

/-- R97: whatever is encoded, within full scale it decodes within full scale. -/
theorem inFullScale_dec_enc (nan : F64) (fmt : SampleFormat) (be : Bool) {v : F64} (hv : InFullScale v) :
    InFullScale (dec nan fmt be (enc fmt be v)) := by
  rw [inFullScale_iff]
  by_cases hfmt : fmt = .f32
  · subst hfmt
    rw [dec_enc_f32]
    obtain ⟨hfin, -, hmag⟩ := fpOfF32_fpToF32 hv nan
    refine ⟨hfin, ?_⟩
    have hone : magUnits 23 (127 * 2 ^ 23) * 2 ^ 925 = 2 ^ 1074 := by decide +kernel
    rw [hmag, ← hone]
    exact Nat.mul_le_mul_right _ ((magUnits_strictMono 23).monotone (roundMag_f32_le_one hv))
  · rw [dec_int hfmt]
    have hlt := rawSample_lt fmt be (enc fmt be v)
    obtain ⟨hfin, -, -⟩ := decInt_exact fmt.bytes_pos hlt fmt.bytes_le_four
    have hscaled := fpMag_decInt_mul_fullScale fmt.bytes_pos hlt fmt.bytes_le_four
    obtain ⟨hlow, hhigh⟩ := signedRaw_bounds fmt.bytes_pos hlt
    refine ⟨hfin, Nat.le_of_mul_le_mul_right (c := 2 ^ (8 * fmt.bytes - 1)) ?_ (by positivity)⟩
    rw [hscaled, Nat.mul_comm]
    exact Nat.mul_le_mul_left _ (by rw [← fullScale]; omega)

/-! ### Every word that a beat emits -/

/-- A taken beat emits nothing, or it completes a frame and emits one clamped word a channel. -/
theorem pushSampleP_pout (nan : NaNs) (fmt : SampleFormat) (x : F64) (s : State) :
    ∃ new, (pushSampleP nan fmt x s).pout = s.pout ++ new ∧
      (s.dyn.part.length + 1 = s.cfg.ch.toNat → new.length = s.cfg.ch.toNat) ∧
      ∀ o ∈ new, ∃ v, o = enc fmt (pBe s.ctrl) (clampOut v) := by
  obtain ⟨hpart, hpush⟩ | ⟨hfull, hpush⟩ := pushSampleP_cases nan fmt x s <;> rw [hpush]
  · exact ⟨[], (List.append_nil _).symm, fun hfull => absurd hfull hpart, fun _ ho => absurd ho List.not_mem_nil⟩
  · refine ⟨_, rfl, fun _ => ?_, fun o ho => ?_⟩
    · rw [List.length_map, List.length_append]
      exact hfull
    · obtain ⟨v, -, rfl⟩ := List.mem_map.1 ho
      exact ⟨_, rfl⟩

/-- Settles O50: the words are encoded clamped values; CLAMP by its cases; each format by its nearest code. -/
theorem outputWithinFullScale : Obligations.OutputWithinFullScale := by
  refine ⟨fun s w fmt hconf hfmt => ?words, fun v => ?clamp, fun v be hlow hhigh => ⟨?integer, ?binary32⟩⟩
  case words =>
    obtain ⟨new, hpout, hlen, hwords⟩ :=
      pushSampleP_pout (s.nans.part 1) fmt (dec (s.nans [0]) fmt (pBe s.ctrl) w) s
    refine ⟨_, new, exec_pBeat_of_taken hconf hfmt, hpout, hlen, fun o ho nan => ?_⟩
    obtain ⟨v, rfl⟩ := hwords o ho
    exact inFullScale_dec_enc nan fmt (pBe s.ctrl) (inFullScale_clampOut v)
  case clamp =>
    exact ⟨clampOut_of_nan, clampOut_of_above, clampOut_of_below,
      fun hlow hhigh => clampOut_of_inFullScale ⟨hlow, hhigh⟩⟩
  case integer =>
    simp only [List.forall_mem_cons, List.not_mem_nil, false_implies, implies_true, and_true]
    have hv : InFullScale v := ⟨hlow, hhigh⟩
    obtain ⟨hbig16, -, -⟩ := rawSample_bigEndian (enc .s16 be v)
    obtain ⟨-, hbig24, -⟩ := rawSample_bigEndian (enc .s24 be v)
    obtain ⟨-, -, hbig32⟩ := rawSample_bigEndian (enc .s32 be v)
    exact ⟨enc_int_nearest (fmt := .s16) (by decide) rfl hv (rawSample_littleEndian _ rfl) hbig16,
      enc_int_nearest (fmt := .s24) (by decide) rfl hv (rawSample_littleEndian _ rfl) hbig24,
      enc_int_nearest (fmt := .s32) (by decide) rfl hv (rawSample_littleEndian_s32 _) hbig32⟩
  case binary32 =>
    have hv : InFullScale v := ⟨hlow, hhigh⟩
    rintro nan d hnan rfl
    obtain ⟨hfin, hsign, -⟩ := fpOfF32_fpToF32 hv nan
    rw [← dec_enc_f32 nan be] at hfin hsign
    refine ⟨hfin, hsign, fun o ho => ?_⟩
    obtain ⟨hnear, heven⟩ := dec_enc_f32_nearest hv hnan ho
    refine ⟨hnear, fun htie hne => ?_⟩
    have hbit := heven htie hne
    rw [← fpToF32_mod hv.isFinite] at hbit
    rw [enc_f32_lowest_bit, BitVec.getLsbD, Nat.testBit_zero]
    exact decide_eq_false (by omega)

end Sys2Proof.Machine
end

section
/-! Playback at unity (44_dynamics.md R98): with gain and envelope 1.0 and no sample above the threshold, a frame comes
out bit for bit as it went in. -/

namespace Sys2Proof.Machine

/-! ### Unity is neutral -/

/-- `fabs` keeps the magnitude bits under no sign. -/
theorem fpAbs_eq (a : F64) : fpAbs a = fpPack false (fpMagBits a) := by
  have hmask : 0x7FFFFFFFFFFFFFFF#64 = BitVec.ofBool false ++ BitVec.allOnes 63 := by decide
  conv_lhs => rw [← fpPack_sign_magBits a]
  rw [fpAbs, hmask, fpPack, fpPack, BitVec.and_append, BitVec.and_allOnes, BitVec.ofBool_and_ofBool, Bool.and_false]

@[simp] theorem fpMagBits_fpAbs (a : F64) : fpMagBits (fpAbs a) = fpMagBits a := by
  rw [fpAbs_eq, fpMagBits_pack _ (fpMagBits_lt a)]

@[simp] theorem fpIsNaN_fpAbs (a : F64) : fpIsNaN (fpAbs a) = fpIsNaN a := by
  rw [Bool.eq_iff_iff, fpIsNaN_iff, fpIsNaN_iff, fpMagBits_fpAbs]

theorem fpKey_fpAbs (a : F64) : fpKey (fpAbs a) = fpMagBits a := by
  rw [fpKey_eq_signed, fpMagBits_fpAbs, fpAbs_eq, fpSign_pack]
  rfl

theorem inFullScale_of_abs {v : F64} (h : fpLe (fpAbs v) f64One = true) : InFullScale v := by
  obtain ⟨hnan, -, hkey⟩ := fpLe_iff.1 h
  rw [fpIsNaN_fpAbs] at hnan
  rw [fpKey_fpAbs] at hkey
  obtain ⟨hlow, hhigh⟩ := signed_bounds (fpSign v) (Int.ofNat_le.1 hkey : fpMagBits v ≤ fpMagBits f64One)
  exact ⟨fpLe_iff.2 ⟨by decide, hnan, hlow⟩, fpLe_iff.2 ⟨hnan, by decide, hhigh⟩⟩

theorem fpMul_one (nan : F64) {v : F64} (hv : fpIsFinite v = true) : fpMul nan v f64One = v := by
  obtain ⟨hnan, -⟩ := not_nan_not_inf_of_finite hv
  have hone : fpMag f64One = 2 ^ 1074 := by decide +kernel
  have hsign : fpSign f64One = false := by decide
  have hpos : 0 < 2 ^ 1074 := by positivity
  rw [fpMul_of_finite hv (by decide), hsign, Bool.bne_false, fpRound, hone, roundMag_fpMag hnan hpos,
    fpPack_sign_magBits]

/-- A ramp count as a divisor: positive and finite. -/
theorem fpOfNat_word {n : Nat} (hpos : 0 < n) (hn : n < 2 ^ 64) :
    fpIsFinite (fpOfNat n) = true ∧ fpSign (fpOfNat n) = false ∧ fpMagBits (fpOfNat n) ≠ 0 := by
  have hmono := roundMag_mono 52 infMag Nat.one_pos
  have hlow : roundMag 53 infMag (1 * 2 ^ 1074) 1 ≤ roundMag 53 infMag (n * 2 ^ 1074) 1 :=
    hmono (Nat.mul_le_mul_right _ hpos)
  have hhigh : roundMag 53 infMag (n * 2 ^ 1074) 1 ≤ roundMag 53 infMag (2 ^ 64 * 2 ^ 1074) 1 :=
    hmono (Nat.mul_le_mul_right _ hn.le)
  have hone : roundMag 53 infMag (1 * 2 ^ 1074) 1 = 1023 * 2 ^ 52 := by decide +kernel
  have htop : roundMag 53 infMag (2 ^ 64 * 2 ^ 1074) 1 < infMag := by decide +kernel
  have hlt := hhigh.trans_lt htop
  have hbits : fpMagBits (fpOfNat n) = roundMag 53 infMag (n * 2 ^ 1074) 1 :=
    fpMagBits_pack _ (hlt.trans infMag_lt)
  refine ⟨(fpIsFinite_iff _).2 (hbits ▸ hlt), fpSign_pack .., ?_⟩
  rw [hone] at hlow
  omega

/-- A ramp from 1.0 to 1.0 stays at 1.0, whatever its count. -/
theorem rampStep_curGain_of_unity (nan : NaNs) {d : Dynamics} (hcur : d.curGain = f64One) (htgt : d.tgtGain = f64One) :
    (rampStep nan d).curGain = f64One := by
  rw [rampStep_eq, hcur, htgt]
  dsimp only
  split
  next => rfl
  next hlong =>
    obtain ⟨hfin, hsign, hzero⟩ := fpOfNat_word (n := d.remain.toNat) (by omega) d.remain.isLt
    rw [fpSub_self _ (by decide), fpDiv_zero_left _ hfin hsign hzero, fpAdd_of_finite (by decide) (by decide)]
    decide +kernel

/-! ### The peak -/

/-- A property of +0 and of every gained magnitude is one of the peak. -/
theorem framePeak_induction {P : F64 → Prop} (nan g : F64) {x : List F64} (hzero : P f64Zero)
    (hx : ∀ v ∈ x, P (fpAbs (fpMul nan v g))) : P (framePeak nan g x) := by
  refine List.foldlRecOn x _ hzero fun peak hpeak v hv => ?_
  split
  next => exact hx v hv
  next => exact hpeak

/-- A threshold that some magnitude does not pass is not below 0. -/
theorem not_fpLt_zero {thr v : F64} (hv : InFullScale v) (h : fpLt thr (fpAbs v) = false) :
    fpLt thr f64Zero = false := by
  obtain ⟨hnan, -, -⟩ := fpLe_iff.1 hv.2
  have habs : fpLe f64Zero (fpAbs v) = true := by
    refine fpLe_iff.2 ⟨by decide, (fpIsNaN_fpAbs v).trans hnan, ?_⟩
    rw [fpKey_fpAbs]
    exact Int.natCast_nonneg _
  exact Bool.eq_false_iff.2 fun hlt => Bool.eq_false_iff.1 h (fpLt_of_fpLt_of_fpLe hlt habs)

/-! ### A frame at unity -/

theorem outputWord_of_unity (nan : F64) (fmt : SampleFormat) (be : Bool) {v : F64} (hv : InFullScale v) :
    outputWord nan fmt be f64One f64One v = enc fmt be v := by
  rw [outputWord, fpMul_one nan hv.isFinite, fpMul_one nan hv.isFinite, clampOut_of_inFullScale hv]

section Frame

variable (nan : NaNs) {con : Consts} {x : List F64} {d : Dynamics} (hcur : d.curGain = f64One)
  (htgt : d.tgtGain = f64One)

include hcur htgt

theorem processDyn_curGain_of_unity : (processDyn nan con x d).curGain = f64One :=
  rampStep_curGain_of_unity (nan.part 0) hcur htgt

/-- No magnitude of the frame passes the threshold, so its peak does not either. -/
theorem processDyn_env_of_unity (henv : d.env = f64One) (hne : x ≠ [])
    (hx : ∀ v ∈ x, InFullScale v ∧ fpLt con.limThr (fpAbs v) = false) : (processDyn nan con x d).env = f64One := by
  obtain ⟨v, hv⟩ := List.exists_mem_of_ne_nil x hne
  obtain ⟨hunit, hbelow⟩ := hx v hv
  have hpeak : fpLt con.limThr (framePeak (nan [2]) f64One x) = false := by
    refine framePeak_induction (P := fun p => fpLt con.limThr p = false) _ _ (not_fpLt_zero hunit hbelow) fun v hv => ?_
    obtain ⟨hunit, hbelow⟩ := hx v hv
    rwa [fpMul_one _ hunit.isFinite]
  simp only [processDyn, rampStep_env, rampStep_curGain_of_unity (nan.part 0) hcur htgt, henv]
  exact limiterStep_of_below _ hpeak

end Frame

/-- At unity a frame is encoded as it stands, and the gain state stays. -/
theorem processFrame_of_unity (nan : NaNs) (fmt : SampleFormat) {x : List F64} {s : State}
    (hcur : s.dyn.curGain = f64One) (htgt : s.dyn.tgtGain = f64One) (henv : s.dyn.env = f64One) (hne : x ≠ [])
    (hx : ∀ v ∈ x, InFullScale v ∧ fpLt s.con.limThr (fpAbs v) = false) :
    (processFrame nan fmt x s).pout = s.pout ++ x.map (enc fmt (pBe s.ctrl)) ∧
      (processFrame nan fmt x s).dyn.curGain = f64One ∧ (processFrame nan fmt x s).dyn.tgtGain = f64One ∧
      (processFrame nan fmt x s).dyn.env = f64One := by
  have hgain := processDyn_curGain_of_unity nan (con := s.con) (x := x) hcur htgt
  have henv' := processDyn_env_of_unity nan hcur htgt henv hne hx
  refine ⟨?_, hgain, (processDyn_tgtGain ..).trans htgt, henv'⟩
  simp only [processFrame, hgain, henv']
  congr 1
  refine List.map_congr_left fun v hv => ?_
  obtain ⟨hunit, -⟩ := hx v hv
  exact outputWord_of_unity _ fmt _ hunit

/-! ### Decoded words -/

/-- A word that decodes to a finite value draws no NaN. -/
theorem dec_eq_of_finite {nan : F64} {fmt : SampleFormat} {be : Bool} {o : Beat} (hnan : fpIsNaN nan = true)
    (hfin : fpIsFinite (dec nan fmt be o) = true) (nan' : F64) : dec nan' fmt be o = dec nan fmt be o := by
  by_cases hfmt : fmt = .f32
  · subst hfmt
    have hexp := f32Exp_ne_of_finite hnan hfin
    simp only [dec, fpOfF32, if_neg hexp]
  · rw [dec_int hfmt, dec_int hfmt]

/-- Settles O53: the held samples are the decoded words whatever the NaNs, and a frame at unity is encoded as it was
decoded. -/
theorem playbackRoundTrip : Obligations.PlaybackRoundTrip := by
  intro s fmt nan ws w hconf hfmt hpart hlen hcur htgt henv hwords
  have hwords' : ∀ o ∈ ws ++ [w], InFullScale (dec (s.nans [0]) fmt (pBe s.ctrl) o) ∧
      fpLt s.con.limThr (fpAbs (dec (s.nans [0]) fmt (pBe s.ctrl) o)) = false := fun o ho => by
    obtain ⟨-, hdec⟩ := hwords o ho
    obtain ⟨habs, hbelow⟩ := hdec (s.nans [0])
    exact ⟨inFullScale_of_abs habs, hbelow⟩
  have hframe : s.dyn.part ++ [dec (s.nans [0]) fmt (pBe s.ctrl) w] =
      (ws ++ [w]).map (dec (s.nans [0]) fmt (pBe s.ctrl)) := by
    rw [hpart, List.map_append]
    congr 1
    exact List.map_congr_left fun o ho =>
      dec_eq_of_finite (fpIsNaN_nans s _) (hwords' o (List.mem_append_left _ ho)).1.isFinite nan
  have hrun := exec_pBeat_of_taken (w := w) hconf hfmt
  rw [pushSampleP_of_frame _ _ _ (by rw [hpart, List.length_map, hlen]), hframe] at hrun
  obtain ⟨hpout, hgain⟩ := processFrame_of_unity (s.nans.part 1) fmt (s := { s with dyn := { s.dyn with part := [] } })
    (x := (ws ++ [w]).map (dec (s.nans [0]) fmt (pBe s.ctrl))) hcur htgt henv (by simp)
    (List.forall_mem_map.2 hwords')
  have hback : ((ws ++ [w]).map (dec (s.nans [0]) fmt (pBe s.ctrl))).map (enc fmt (pBe s.ctrl)) = ws ++ [w] := by
    rw [List.map_map]
    refine (List.map_congr_left fun o ho => ?_).trans (List.map_id _)
    obtain ⟨hfit, -⟩ := hwords o ho
    obtain ⟨⟨hlow, hhigh⟩, -⟩ := hwords' o ho
    exact sampleRoundTrip _ fmt _ o (fpIsNaN_nans s _) hfit hlow hhigh
  refine ⟨_, hrun, ?_, hgain⟩
  rw [State.bumpNaN_pout, hpout, hback, List.append_assoc]

end Sys2Proof.Machine
end

section
/-! Control (45_control.md): DISPATCH (R99), NOP and CONFIGURE (R100, R101), and the write rule of each register
(R102 to R105). -/

namespace Sys2Proof.Machine

/-! ### Register writes (R102) -/

/-- An 8-byte write at the offset of a register that is not read-only is the register's write rule. -/
theorem exec_regWrite_reg {addr : Addr} {r : Reg} (haddr : addr.toNat = 8 * regTable.idxOf r) (hrw : r.access ≠ .ro)
    (v : Word) (s : State) : exec (.regWrite addr 8 v) s = .next (writeReg r v s) := by
  have hcheck : busCheck s.build addr 8 = .ok (.reg r) :=
    (busCheck_ok_iff ..).mpr ⟨rfl, by omega, haddr ▸ placeAt_regOffset s.build r⟩
  simp only [exec, execRegWrite, memWrite, hcheck, writePlace, if_neg hrw]

/-- Settles O16: the rows are the RW registers of the table but CTRL, each with its write rule. -/
theorem registerWrites : Obligations.RegisterWrites := by
  intro s v
  have hrows : ∀ row ∈ (regTable.filter fun r => r.access = .rw ∧ r ≠ .ctrl).map
      fun r => (BitVec.ofNat 24 (8 * regTable.idxOf r), writeReg r v s),
      exec (.regWrite row.1 8 v) s = .next row.2 := by
    refine List.forall_mem_map.mpr fun r hr => ?_
    have hlt := idxOf_regTable_lt r
    obtain ⟨hrw, -⟩ := of_decide_eq_true (List.mem_filter.mp hr).2
    refine exec_regWrite_reg (toNat_ofNat_of_lt (by omega)) (fun hro => ?_) v s
    exact nomatch hro.symm.trans hrw
  exact hrows

/-! ### STATUS (R105) -/

theorem Status.get_w1c (st : Status) (v : Word) (b : Sticky) : (st.w1c v).get b = (st.get b && !v.getLsbD b.bit) := by
  cases b <;> rfl

/-- Settles O17: the write rule is `Status.w1c`, which names the sticky bits alone. -/
theorem statusWriteClears : Obligations.StatusWriteClears := fun s v =>
  ⟨s.status.w1c v, exec_regWrite_reg (r := .status) (by decide) (by decide) v s, Status.get_w1c s.status v,
    rfl, rfl, rfl, rfl, rfl⟩

/-! ### CTRL (R104) -/

/-- The test of a command that drops both partial frames: one of them holds a sample. -/
theorem not_isEmpty_or_not_isEmpty (a d : List F64) : (!a.isEmpty || !d.isEmpty) = decide (a ≠ [] ∨ d ≠ []) := by
  rw [Bool.eq_iff_iff]
  simp

theorem Status.raiseIf_partDrop (st : Status) (c : Bool) :
    st.raiseIf c .partDrop = { st with partDrop := st.partDrop || c } := by
  cases c with
  | false => simp
  | true => simp [Status.raise]

/-- Settles O18: the write rule, with its test of the two partial frames as a proposition. -/
theorem ctrlWriteDropsPartialFrames : Obligations.CtrlWriteDropsPartialFrames := by
  intro s v
  refine (exec_regWrite_reg (r := .ctrl) (by decide) (by decide) v s).trans ?_
  simp only [writeReg, writeCtrl, not_isEmpty_or_not_isEmpty, Status.raiseIf, decide_eq_true_eq, Status.raise]

/-! ### BLOCK_SIZE and HOP_SIZE (R103) -/

section Sizes

variable {s : State}

theorem sizeBusy_of_unconfigured (hconf : s.status.configured = false) : sizeBusy s = some .wrNotConfigured := by
  simp [sizeBusy, hconf]

theorem sizeBusy_of_session (hconf : s.status.configured = true) (hopen : s.status.aOpen = true)
    (htaken : s.ana.frames ≠ 0 ∨ s.ana.part ≠ []) : sizeBusy s = some .wrSessionBusy := by
  simpa [sizeBusy, hconf, hopen, imp_iff_not_or] using htaken

theorem sizeBusy_of_idle (hconf : s.status.configured = true)
    (hidle : ¬ (s.status.aOpen = true ∧ (s.ana.frames ≠ 0 ∨ s.ana.part ≠ []))) : sizeBusy s = none := by
  refine (sizeBusy_none_iff s).mpr ⟨hconf, fun hopen => ?_⟩
  simpa [hopen] using hidle

/-- Both size registers fail the same checks before they look at the value. -/
theorem exec_regWrite_size_of_busy {e : Err} (hbusy : sizeBusy s = some e) (v : Word) :
    ∀ a ∈ [0x000048#24, 0x000050#24], exec (.regWrite a 8 v) s = .next (raiseError e s) := by
  simp only [List.forall_mem_cons, List.not_mem_nil, false_implies, implies_true, and_true]
  constructor
  · rw [exec_regWrite_reg (r := .blockSize) (by decide) (by decide), writeReg, writeBlockSize, hbusy]
  · rw [exec_regWrite_reg (r := .hopSize) (by decide) (by decide), writeReg, writeHopSize, hbusy]

theorem writeBlockSize_of_idle (hidle : sizeBusy s = none) (v : Word) :
    writeBlockSize v s =
      if blockSizeBad s v then raiseError .wrRange s else { s with cfg := { s.cfg with blockSize := v } } := by
  rw [writeBlockSize, hidle]

theorem writeHopSize_of_idle (hidle : sizeBusy s = none) (v : Word) :
    writeHopSize v s =
      if hopSizeBad s v then raiseError .wrRange s else { s with cfg := { s.cfg with hopSize := v } } := by
  rw [writeHopSize, hidle]

end Sizes

/-- Settles O19: the two state checks are `sizeBusy`; past them each register checks its own range. -/
theorem sizeWrites : Obligations.SizeWrites := by
  refine fun s v => ⟨fun hconf => exec_regWrite_size_of_busy (sizeBusy_of_unconfigured hconf) v,
    fun hconf hopen htaken => exec_regWrite_size_of_busy (sizeBusy_of_session hconf hopen htaken) v,
    fun hconf hidle => ?_⟩
  have hfree := sizeBusy_of_idle hconf hidle
  constructor
  · exact (exec_regWrite_reg (r := .blockSize) (by decide) (by decide) v s).trans
      ((congrArg _ (writeBlockSize_of_idle hfree v)).trans (apply_ite ..))
  · exact (exec_regWrite_reg (r := .hopSize) (by decide) (by decide) v s).trans
      ((congrArg _ (writeHopSize_of_idle hfree v)).trans (apply_ite ..))

/-! ### DISPATCH (R99) -/

/-- The opcode map (30_encoding.md R54). -/
def opcodes : List (BitVec 8) := [0x00#8, 0x01#8, 0x02#8, 0x03#8, 0x10#8, 0x11#8, 0x12#8]

/-- The opcode map is CONFIGURE's opcode and those of format Z. -/
theorem mem_opcodes_iff (opc : BitVec 8) : opc ∈ opcodes ↔ opc = 0x01#8 ∨ ∃ c, formatZ opc = some c := by
  constructor
  · intro h
    simp only [opcodes, List.mem_cons, List.not_mem_nil, or_false] at h
    obtain rfl | rfl | rfl | rfl | rfl | rfl | rfl := h
    · exact .inr ⟨.nop, rfl⟩
    · exact .inl rfl
    · exact .inr ⟨.aReset, rfl⟩
    · exact .inr ⟨.aFinalize, rfl⟩
    · exact .inr ⟨.dSetTarget, rfl⟩
    · exact .inr ⟨.dFlush, rfl⟩
    · exact .inr ⟨.dReset, rfl⟩
  · rintro (rfl | ⟨c, h⟩)
    · decide
    · unfold formatZ at h
      split_ifs at h <;> simp [opcodes, *]

theorem opc_of_formatZ {opc : BitVec 8} {c : Command} (h : formatZ opc = some c) : c.opc = opc := by
  unfold formatZ at h
  split_ifs at h <;> cases h <;> exact Eq.symm ‹_›

section Dispatch

variable {cw : Word} {s : State}

theorem decodeCommand_of_configure (hopc : opcOf cw = 0x01#8) :
    decodeCommand cw =
      if rsvOf cw = 0#32 then .ok (.configure (fsOf cw) (chm1Of cw)) else .error .reservedBits := if_pos hopc

theorem decodeCommand_of_formatZ {c : Command} (hz : formatZ (opcOf cw) = some c) :
    decodeCommand cw = if rsvOf cw = 0#32 ∧ operandsOf cw = 0#24 then .ok c else .error .reservedBits := by
  have hopc : opcOf cw ≠ 0x01#8 := fun h => nomatch (h ▸ hz : formatZ 0x01#8 = some c)
  simp only [decodeCommand, if_neg hopc, hz]

theorem decodeCommand_of_unlisted (h : opcOf cw ∉ opcodes) : decodeCommand cw = .error .illegalOpcode := by
  rw [mem_opcodes_iff, not_or, ← Option.ne_none_iff_exists', not_not] at h
  obtain ⟨hopc, hz⟩ := h
  simp only [decodeCommand, if_neg hopc, hz]

theorem decodeCommand_of_reserved (hlisted : opcOf cw ∈ opcodes)
    (h : rsvOf cw ≠ 0#32 ∨ (opcOf cw ≠ 0x01#8 ∧ operandsOf cw ≠ 0#24)) :
    decodeCommand cw = .error .reservedBits := by
  obtain hopc | ⟨c, hz⟩ := (mem_opcodes_iff _).mp hlisted
  · have hrsv : rsvOf cw ≠ 0#32 := h.resolve_right fun ⟨hno, _⟩ => hno hopc
    rw [decodeCommand_of_configure hopc, if_neg hrsv]
  · rw [decodeCommand_of_formatZ hz, if_neg]
    exact fun ⟨hrsv, hoperands⟩ => h.elim (· hrsv) fun ⟨_, hno⟩ => hno hoperands

/-- A word that passes the decoding checks is a command of its own opcode. -/
theorem decodeCommand_of_clear (hlisted : opcOf cw ∈ opcodes) (hrsv : rsvOf cw = 0#32)
    (h : opcOf cw = 0x01#8 ∨ operandsOf cw = 0#24) : ∃ c, decodeCommand cw = .ok c ∧ c.opc = opcOf cw := by
  by_cases hopc : opcOf cw = 0x01#8
  · exact ⟨.configure (fsOf cw) (chm1Of cw), by rw [decodeCommand_of_configure hopc, if_pos hrsv], hopc.symm⟩
  · obtain ⟨c, hz⟩ := ((mem_opcodes_iff _).mp hlisted).resolve_left hopc
    exact ⟨c, by rw [decodeCommand_of_formatZ hz, if_pos ⟨hrsv, h.resolve_left hopc⟩], opc_of_formatZ hz⟩

theorem exec_toInstr (c : Command) (s : State) : exec c.toInstr s = .next (runCommand c s) := by
  cases c <;> rfl

theorem exec_regWrite_cmd (cw : Word) (s : State) :
    exec (.regWrite cmdAddr 8 cw) s = .next (dispatchCommand cw s) :=
  exec_regWrite_reg (r := .cmd) (by decide) (by decide) cw s

theorem exec_regWrite_cmd_of_ok {c : Command} (h : decodeCommand cw = .ok c) :
    exec (.regWrite cmdAddr 8 cw) s = .next (runCommand c s) := by
  rw [exec_regWrite_cmd, dispatchCommand, h]

theorem exec_regWrite_cmd_of_error {r : CmdReject} (h : decodeCommand cw = .error r) :
    exec (.regWrite cmdAddr 8 cw) s = .next (raiseError (CmdReject.err r) s) := by
  rw [exec_regWrite_cmd, dispatchCommand, h]

theorem whenConfigured_of_unconfigured (f : State → State) (hconf : s.status.configured = false) :
    whenConfigured f s = raiseError .notConfigured s := by
  simp [whenConfigured, hconf]

/-- Only NOP and CONFIGURE run before a configuration. -/
theorem runCommand_of_unconfigured {c : Command} (hnop : c.opc ≠ 0x00#8) (hconfigure : c.opc ≠ 0x01#8)
    (hconf : s.status.configured = false) : runCommand c s = raiseError .notConfigured s := by
  cases c with
  | nop => exact absurd rfl hnop
  | configure fs chm1 => exact absurd rfl hconfigure
  | aFinalize => rw [runCommand, finalize, whenConfigured_of_unconfigured _ hconf]
  | aReset | dSetTarget | dFlush | dReset => exact whenConfigured_of_unconfigured _ hconf

end Dispatch

/-- Settles O9: each class of words decodes to its rejection or to its command, which checks the configuration
itself. -/
theorem commandDispatch : Obligations.CommandDispatch := by
  refine fun cw s => ⟨fun hunlisted => exec_regWrite_cmd_of_error (decodeCommand_of_unlisted hunlisted),
    fun hlisted => ⟨fun hreserved => exec_regWrite_cmd_of_error (decodeCommand_of_reserved hlisted hreserved),
      fun hrsv hoperands => ?_⟩⟩
  obtain ⟨c, hdecode, hopc⟩ := decodeCommand_of_clear hlisted hrsv hoperands
  have hrun := exec_regWrite_cmd_of_ok (s := s) hdecode
  refine ⟨fun hnop hconfigure hconf => ?_, c, hdecode, hrun.trans (exec_toInstr c s).symm⟩
  exact hrun.trans (congrArg _
    (runCommand_of_unconfigured (hopc.trans_ne hnop) (hopc.trans_ne hconfigure) hconf))

/-! ### NOP and CONFIGURE (R100, R101) -/

/-- Settles O24: the word by evaluation, and the meaning is the state itself. -/
theorem nopChangesNothing : Obligations.NopChangesNothing := ⟨by decide, fun _ => rfl⟩

theorem exec_configure_of_rejected {fs : BitVec 20} {chm1 : BitVec 4} {s : State} {e : Err}
    (h : configError s.build fs.toNat (chm1.toNat + 1) = some e) :
    exec (.configure fs chm1) s = .next (raiseError e s) := by
  simp only [exec, execConfigure, configure, h]

section ConfigError

variable {p : Config.Params} {fs ch : Nat}

theorem configError_of_badRate (h : fs < p.fsMin ∨ p.fsMax < fs) : configError p fs ch = some .badRate := if_pos h

theorem configError_of_badChannels (hmin : p.fsMin ≤ fs) (hmax : fs ≤ p.fsMax) (hch : p.chMax < ch) :
    configError p fs ch = some .badChannels := by
  rw [configError, if_neg (by omega), if_pos hch]

theorem configError_of_ringTooSmall (hmin : p.fsMin ≤ fs) (hmax : fs ≤ p.fsMax) (hch : ch ≤ p.chMax)
    (hring : p.ringDepth < blockSizeOf fs * ch) : configError p fs ch = some .ringTooSmall := by
  rw [configError, if_neg (by omega), if_neg (by omega), if_pos hring]

theorem configError_of_accepted (hmin : p.fsMin ≤ fs) (hmax : fs ≤ p.fsMax) (hch : ch ≤ p.chMax)
    (hring : blockSizeOf fs * ch ≤ p.ringDepth) : configError p fs ch = none := by
  rw [configError, if_neg (by omega), if_neg (by omega), if_neg (by omega)]

end ConfigError

/-- Settles O25: the first failing check of `configError` decides. -/
theorem configureRejects : Obligations.ConfigureRejects := fun _ _ _ =>
  ⟨fun hrate => exec_configure_of_rejected (configError_of_badRate hrate), fun hmin hmax =>
    ⟨fun hch => exec_configure_of_rejected (configError_of_badChannels hmin hmax hch), fun hch hring =>
      exec_configure_of_rejected (configError_of_ringTooSmall hmin hmax hch hring)⟩⟩

/-- Settles O26: the effect is `applyConfig`, whose one conditional is PART_DROP. -/
theorem configureApplies : Obligations.ConfigureApplies := by
  intro fs chm1 s hmin hmax hch hring
  have hok := configError_of_accepted hmin hmax hch hring
  refine ⟨coeffsOf (s.nans.part 0) s.build fs.toNat, timeCoefOf (s.nans.part 1) s.build.atkT fs.toNat,
    timeCoefOf (s.nans.part 2) s.build.relT fs.toNat, ?_⟩
  rw [exec_configure_of_accepted hok, applyConfig, not_isEmpty_or_not_isEmpty, Status.raiseIf_partDrop]
  rfl

end Sys2Proof.Machine
end

section
/-! Errors and the interrupt (60_exceptions.md): what raising an error records (R107, R108), the interrupt line (R110),
the engines' independence (R117), and what each operation does to STATUS: it sets sticky bits under the same ERRCODE, or
it records one error and does nothing else; only a write to STATUS clears (R106, R112). -/

namespace Sys2Proof.Machine

/-! ### Raising an error (R107, R108) -/

/-- A sticky bit does not depend on the state bits or on ERRCODE. -/
theorem Status.get_with_other_fields (st : Status) (configured aOpen resValid tgtSet : Bool) (code : BitVec 8)
    (b : Sticky) :
    Status.get { st with
      configured := configured, aOpen := aOpen, resValid := resValid, tgtSet := tgtSet, errCode := code } b =
        st.get b := by
  cases b <;> rfl

theorem raiseError_get (e : Err) (s : State) (b : Sticky) :
    (raiseError e s).status.get b = (decide (b = e.cls.sticky) || s.status.get b) := by
  rw [raiseError_status, Status.get_with_other_fields, Status.get_raise]

/-- The fourteen errors, in the order of R107. -/
def Err.all : List Err :=
  [.illegalOpcode, .reservedBits, .notConfigured, .badRate, .badChannels, .ringTooSmall, .sessionClosed,
   .wrSessionBusy, .wrRange, .wrNotConfigured, .busSize, .busMisaligned, .busUnmapped, .busReadonly]

/-- Settles O20: each row of R107's table is an error with its own code and class. -/
theorem raisingRecordsOnly : Obligations.RaisingRecordsOnly := by
  intro s row hrow
  have htable : row ∈ Err.all.map fun e => (e, e.code, e.cls.sticky) := hrow
  obtain ⟨e, -, rfl⟩ := List.mem_map.mp htable
  exact ⟨_, rfl, rfl, raiseError_get e s, Status.raise_configured .., Status.raise_aOpen .., Status.raise_resValid ..,
    Status.raise_tgtSet ..⟩

/-! ### The interrupt line (R110) -/

theorem Sticky.mem_all (b : Sticky) : b ∈ Sticky.all := by cases b <;> decide

theorem irq_iff (s : State) :
    irq s = true ↔ ∃ b : Sticky, s.status.get b = true ∧ s.irqEn.getLsbD b.bit = true := by
  simp only [irq, List.any_eq_true, Bool.and_eq_true, Sticky.mem_all, true_and]

/-- CLRSTAT's word has a 1 at every sticky bit (R62). -/
theorem clrstat_getLsbD (b : Sticky) : (0x1FF00#64).getLsbD b.bit = true := by cases b <;> decide

theorem irq_of_clrstat (s : State) : irq { s with status := s.status.w1c 0x1FF00#64 } = false := by
  rw [← Bool.not_eq_true, irq_iff]
  rintro ⟨b, hset, -⟩
  simp [Status.get_w1c, clrstat_getLsbD] at hset

/-- Settles O23: the nine sources are all the sticky bits, and CLRSTAT clears each of them. -/
theorem interruptLine : Obligations.InterruptLine :=
  ⟨irq_iff, fun s => ⟨_, exec_regWrite_reg (r := .status) (by decide) (by decide) _ s, irq_of_clrstat s⟩⟩

/-! ### What a beat touches -/

section Beats

variable (s : State)

theorem storeBlock_effect (e : F64) :
    ∃ ana mem c, storeBlock e s = { s with ana := ana, mem := mem, status := s.status.raiseIf c .blkOvf } := by
  obtain ⟨-, -, hrun⟩ | ⟨-, -, hrun⟩ | ⟨-, hrun⟩ := storeBlock_cases e s
  · exact ⟨_, _, false, hrun⟩
  · exact ⟨_, _, true, hrun⟩
  · exact ⟨_, _, false, hrun⟩

theorem analyzeFrame_effect (nan : NaNs) (x : List F64) :
    ∃ ana mem c, analyzeFrame nan x s = { s with ana := ana, mem := mem, status := s.status.raiseIf c .blkOvf } := by
  obtain ⟨-, hrun⟩ | ⟨-, hrun⟩ := analyzeFrame_cases nan x s
  · obtain ⟨ana, mem, c, hstore⟩ := storeBlock_effect (pushFrame (nan.part 0) x s) _
    exact ⟨ana, mem, c, hrun.trans hstore⟩
  · exact ⟨_, _, false, hrun⟩

/-- An A beat touches the analysis state and block memory, and sets at most one sticky bit. -/
theorem analysisBeat_effect (w : Beat) :
    ∃ ana mem c b n, analysisBeat w s =
      { s with ana := ana, mem := mem, status := s.status.raiseIf c b, nanSeq := n } := by
  obtain ⟨hrun, -⟩ | ⟨hrun, -⟩ | ⟨fmt, -, -, -, hrun⟩ := analysisBeat_cases w s
  · exact ⟨_, _, true, .aDrop, _, hrun⟩
  · exact ⟨_, _, true, .unsup, _, hrun⟩
  · obtain ⟨-, hpush⟩ | ⟨-, hpush⟩ :=
      pushSampleA_cases (s.nans.part 1) (dec (s.nans [0]) fmt (aBe s.ctrl) w) s <;> rw [hrun, hpush]
    · exact ⟨_, _, false, .blkOvf, _, rfl⟩
    · obtain ⟨ana, mem, c, hframe⟩ := analyzeFrame_effect { s with ana := { s.ana with part := [] } } _ _
      exact ⟨ana, mem, c, .blkOvf, _, congrArg State.bumpNaN hframe⟩

/-- A P beat touches the dynamics state and POUT, and sets at most one sticky bit. -/
theorem playbackBeat_effect (w : Beat) :
    ∃ dyn pout c b n, playbackBeat w s =
      { s with dyn := dyn, pout := pout, status := s.status.raiseIf c b, nanSeq := n } := by
  obtain ⟨-, hrun⟩ | ⟨-, -, hrun⟩ | ⟨fmt, -, -, hrun⟩ := playbackBeat_cases w s
  · exact ⟨_, _, true, .pPass, _, hrun⟩
  · exact ⟨_, _, true, .unsup, _, hrun⟩
  · obtain ⟨-, hpush⟩ | ⟨-, hpush⟩ :=
      pushSampleP_cases (s.nans.part 1) fmt (dec (s.nans [0]) fmt (pBe s.ctrl) w) s <;> rw [hrun, hpush] <;>
      exact ⟨_, _, false, .pPass, _, rfl⟩

end Beats

/-! ### The engines (R117) -/

/-- What the analysis engine leaves alone: the dynamics state, POUT, TGT_SET and every host-written register. -/
def KeepsDynamics (s t : State) : Prop :=
  t.dyn = s.dyn ∧ t.pout = s.pout ∧ t.status.tgtSet = s.status.tgtSet ∧ t.cfg = s.cfg ∧ t.coef = s.coef ∧
    t.con = s.con ∧ t.tgt = s.tgt ∧ t.ctrl = s.ctrl ∧ t.irqEn = s.irqEn

/-- What the dynamics engine leaves alone: the analysis state, block memory, the results, A_OPEN, RES_VALID and every
host-written register. -/
def KeepsAnalysis (s t : State) : Prop :=
  t.ana = s.ana ∧ t.mem = s.mem ∧ t.res = s.res ∧ t.status.aOpen = s.status.aOpen ∧
    t.status.resValid = s.status.resValid ∧ t.cfg = s.cfg ∧ t.coef = s.coef ∧ t.con = s.con ∧ t.tgt = s.tgt ∧
    t.ctrl = s.ctrl ∧ t.irqEn = s.irqEn

section Engines

variable {s : State}

theorem keepsDynamics_with {st : Status} {ana : Analysis} {mem : Memory} {res : Results} {n : Nat}
    (htgt : st.tgtSet = s.status.tgtSet) :
    KeepsDynamics s { s with status := st, ana := ana, mem := mem, res := res, nanSeq := n } :=
  ⟨rfl, rfl, htgt, rfl, rfl, rfl, rfl, rfl, rfl⟩

theorem keepsDynamics_raiseError (e : Err) : KeepsDynamics s (raiseError e s) :=
  keepsDynamics_with (Status.raise_tgtSet ..)

theorem keepsDynamics_analysisBeat (w : Beat) : KeepsDynamics s (analysisBeat w s) := by
  obtain ⟨ana, mem, c, b, n, hrun⟩ := analysisBeat_effect s w
  rw [hrun]
  exact keepsDynamics_with (Status.raiseIf_tgtSet ..)

theorem keepsDynamics_sessionReset : KeepsDynamics s (sessionReset s) := by
  obtain ⟨-, hrun⟩ | ⟨-, hrun⟩ := whenConfigured_cases openSession s <;> rw [sessionReset, hrun]
  · exact keepsDynamics_with (Status.raiseIf_tgtSet ..)
  · exact keepsDynamics_raiseError _

theorem keepsDynamics_finalize : KeepsDynamics s (finalize s) := by
  obtain ⟨-, -, hrun⟩ | ⟨-, -, hrun⟩ | ⟨-, hrun⟩ := finalize_cases s <;> rw [hrun]
  · exact keepsDynamics_with ((Status.raise_tgtSet ..).trans (Status.raiseIf_tgtSet ..))
  · exact keepsDynamics_raiseError _
  · exact keepsDynamics_raiseError _

theorem keepsAnalysis_with {st : Status} {dyn : Dynamics} {pout : List Beat} {n : Nat}
    (hopen : st.aOpen = s.status.aOpen) (hvalid : st.resValid = s.status.resValid) :
    KeepsAnalysis s { s with status := st, dyn := dyn, pout := pout, nanSeq := n } :=
  ⟨rfl, rfl, rfl, hopen, hvalid, rfl, rfl, rfl, rfl, rfl, rfl⟩

theorem keepsAnalysis_playbackBeat (w : Beat) : KeepsAnalysis s (playbackBeat w s) := by
  obtain ⟨dyn, pout, c, b, n, hrun⟩ := playbackBeat_effect s w
  rw [hrun]
  exact keepsAnalysis_with (Status.raiseIf_aOpen ..) (Status.raiseIf_resValid ..)

theorem keepsAnalysis_whenConfigured {f : State → State} (hf : KeepsAnalysis s (f s)) :
    KeepsAnalysis s (whenConfigured f s) := by
  obtain ⟨-, hrun⟩ | ⟨-, hrun⟩ := whenConfigured_cases f s <;> rw [hrun]
  · exact hf
  · exact keepsAnalysis_with (Status.raise_aOpen ..) (Status.raise_resValid ..)

theorem keepsAnalysis_publishTarget : KeepsAnalysis s (publishTarget s) := keepsAnalysis_with rfl rfl

theorem keepsAnalysis_dynRestore : KeepsAnalysis s (dynRestore s) :=
  keepsAnalysis_with (Status.raiseIf_aOpen ..) (Status.raiseIf_resValid ..)

end Engines

/-- Settles O54: one frame lemma per operation, for its effect and for its rejection. -/
theorem enginesAreIndependent : Obligations.EnginesAreIndependent := by
  constructor <;> intro s w i hi <;> simp only [List.mem_cons, List.not_mem_nil, or_false] at hi
  · obtain rfl | rfl | rfl := hi
    · exact ⟨_, rfl, keepsDynamics_analysisBeat w⟩
    · exact ⟨_, rfl, keepsDynamics_sessionReset⟩
    · exact ⟨_, rfl, keepsDynamics_finalize⟩
  · obtain rfl | rfl | rfl | rfl := hi
    · exact ⟨_, rfl, keepsAnalysis_playbackBeat w⟩
    · exact ⟨_, rfl, keepsAnalysis_whenConfigured keepsAnalysis_publishTarget⟩
    · exact ⟨_, rfl, keepsAnalysis_whenConfigured keepsAnalysis_dynRestore⟩
    · exact ⟨_, rfl, keepsAnalysis_whenConfigured keepsAnalysis_dynRestore⟩

/-! ### ERRCODE and the sticky bits over an operation (R106, R108, R112) -/

/-- The same ERRCODE, and every sticky bit that was set is still set. -/
def Status.OnlySets (a b : Status) : Prop := b.errCode = a.errCode ∧ ∀ x, a.get x = true → b.get x = true

section OnlySets

variable {a b : Status}

theorem Status.onlySets_refl (a : Status) : a.OnlySets a := ⟨rfl, fun _ => id⟩

theorem Status.OnlySets.raise (h : a.OnlySets b) (x : Sticky) : a.OnlySets (b.raise x) := by
  obtain ⟨hcode, hset⟩ := h
  refine ⟨(Status.raise_errCode ..).trans hcode, fun y hy => ?_⟩
  rw [Status.get_raise, hset y hy, Bool.or_true]

theorem Status.OnlySets.raiseIf (h : a.OnlySets b) (c : Bool) (x : Sticky) : a.OnlySets (b.raiseIf c x) := by
  cases c with
  | true => exact h.raise x
  | false => exact h

theorem Status.OnlySets.with_state_bits (h : a.OnlySets b) (configured aOpen resValid tgtSet : Bool) :
    a.OnlySets { b with configured := configured, aOpen := aOpen, resValid := resValid, tgtSet := tgtSet } := by
  obtain ⟨hcode, hset⟩ := h
  refine ⟨hcode, fun y hy => ?_⟩
  rw [Status.get_with_other_fields]
  exact hset y hy

end OnlySets

/-- What an operation other than a write to STATUS does to STATUS: it only sets sticky bits, or it records one error and
changes nothing else but the answer to a read. -/
def StatusEffect (s t : State) : Prop :=
  s.status.OnlySets t.status ∨ ∃ e, { t with busResp := s.busResp } = raiseError e s

section Effects

variable {s : State}

theorem statusEffect_of_status_eq {t : State} (h : t.status = s.status) : StatusEffect s t :=
  .inl (h ▸ Status.onlySets_refl _)

theorem statusEffect_raiseError (e : Err) : StatusEffect s (raiseError e s) := .inr ⟨e, rfl⟩

theorem statusEffect_whenConfigured {f : State → State} (hf : s.status.OnlySets (f s).status) :
    StatusEffect s (whenConfigured f s) := by
  obtain ⟨-, hrun⟩ | ⟨-, hrun⟩ := whenConfigured_cases f s <;> rw [hrun]
  · exact .inl hf
  · exact statusEffect_raiseError _

theorem onlySets_applyConfig (fs ch : Nat) : s.status.OnlySets (applyConfig fs ch s).status :=
  ((Status.onlySets_refl _).raiseIf ..).with_state_bits ..

theorem onlySets_openSession : s.status.OnlySets (openSession s).status :=
  ((Status.onlySets_refl _).raiseIf ..).with_state_bits ..

theorem onlySets_closeSession : s.status.OnlySets (closeSession s).status :=
  (((Status.onlySets_refl _).raiseIf ..).raise .done).with_state_bits ..

theorem onlySets_publishTarget : s.status.OnlySets (publishTarget s).status :=
  (Status.onlySets_refl _).with_state_bits ..

theorem onlySets_dynRestore : s.status.OnlySets (dynRestore s).status := (Status.onlySets_refl _).raiseIf ..

theorem onlySets_writeCtrl (v : Word) : s.status.OnlySets (writeCtrl v s).status := (Status.onlySets_refl _).raiseIf ..

theorem onlySets_analysisBeat (w : Beat) : s.status.OnlySets (analysisBeat w s).status := by
  obtain ⟨ana, mem, c, b, n, hrun⟩ := analysisBeat_effect s w
  rw [hrun]
  exact (Status.onlySets_refl _).raiseIf ..

theorem onlySets_playbackBeat (w : Beat) : s.status.OnlySets (playbackBeat w s).status := by
  obtain ⟨dyn, pout, c, b, n, hrun⟩ := playbackBeat_effect s w
  rw [hrun]
  exact (Status.onlySets_refl _).raiseIf ..

theorem statusEffect_runCommand (c : Command) : StatusEffect s (runCommand c s) := by
  cases c with
  | nop => exact statusEffect_of_status_eq rfl
  | configure fs chm1 =>
    obtain ⟨-, hrun⟩ | ⟨e, -, hrun⟩ := configure_cases fs chm1 s <;> rw [runCommand, hrun]
    · exact .inl (onlySets_applyConfig ..)
    · exact statusEffect_raiseError e
  | aReset => exact statusEffect_whenConfigured onlySets_openSession
  | aFinalize =>
    obtain ⟨-, -, hrun⟩ | ⟨-, -, hrun⟩ | ⟨-, hrun⟩ := finalize_cases s <;> rw [runCommand, hrun]
    · exact .inl onlySets_closeSession
    · exact statusEffect_raiseError _
    · exact statusEffect_raiseError _
  | dSetTarget => exact statusEffect_whenConfigured onlySets_publishTarget
  | dFlush | dReset => exact statusEffect_whenConfigured onlySets_dynRestore

theorem statusEffect_dispatchCommand (cw : Word) : StatusEffect s (dispatchCommand cw s) := by
  obtain ⟨c, -, hrun⟩ | ⟨r, -, hrun⟩ := dispatchCommand_cases cw s <;> rw [hrun]
  · exact statusEffect_runCommand c
  · exact statusEffect_raiseError _

/-- No write rule but STATUS's own clears a sticky bit. -/
theorem statusEffect_writeReg {r : Reg} (v : Word) (hr : r ≠ .status) : StatusEffect s (writeReg r v s) := by
  cases r with
  | status => exact absurd rfl hr
  | ctrl => exact .inl (onlySets_writeCtrl v)
  | cmd => exact statusEffect_dispatchCommand v
  | blockSize =>
    obtain ⟨-, -, hrun⟩ | ⟨e, hrun⟩ := writeBlockSize_cases v s <;> rw [writeReg, hrun]
    · exact statusEffect_of_status_eq rfl
    · exact statusEffect_raiseError e
  | hopSize =>
    obtain ⟨-, -, hrun⟩ | ⟨e, hrun⟩ := writeHopSize_cases v s <;> rw [writeReg, hrun]
    · exact statusEffect_of_status_eq rfl
    · exact statusEffect_raiseError e
  | irqEn | rampFrames | hpAlpha | bqB0 | bqB1 | bqB2 | bqA1 | bqA2 | absThr | relFactor | lufsCal | limThr | atkCoef
  | relCoef | minGainDb | maxGainDb | tgtMeas | tgtRef => exact statusEffect_of_status_eq rfl
  | _ => exact statusEffect_raiseError .busReadonly

/-- A failed read records its error beside the answer (0, ERR). -/
theorem statusEffect_memRead (addr : Addr) (n : Nat) : StatusEffect s (memRead addr n s) := by
  obtain ⟨pl, -, hrun⟩ | ⟨e, -, hrun⟩ := memRead_cases addr n s <;> rw [hrun]
  · exact statusEffect_of_status_eq rfl
  · exact .inr ⟨e, rfl⟩

/-- The write rule of STATUS is reached by an 8-byte write to 0x28 alone. -/
theorem statusEffect_memWrite (addr : Addr) (n : Nat) (v : Word) :
    (addr = 0x000028#24 ∧ n = 8 ∧ memWrite addr n v s = { s with status := s.status.w1c v }) ∨
      StatusEffect s (memWrite addr n v s) := by
  obtain ⟨r, hcheck, -, hrun⟩ | ⟨pl, -, -, hrun⟩ | ⟨e, -, hrun⟩ := memWrite_cases addr n v s
  · by_cases hr : r = .status
    · subst hr
      obtain ⟨hn, halign, hplace⟩ := (busCheck_ok_iff ..).mp hcheck
      exact .inl ⟨BitVec.eq_of_toNat_eq (eq_of_placeAt_reg halign hplace), hn, hrun⟩
    · exact .inr (hrun ▸ statusEffect_writeReg v hr)
  · exact .inr (hrun ▸ statusEffect_raiseError _)
  · exact .inr (hrun ▸ statusEffect_raiseError e)

/-- Every operation is the write of STATUS, or has one of the two effects on it. -/
theorem exec_status_cases {i : Instr} {t : State} (hexec : exec i s = .next t) :
    (∃ v, i = .regWrite 0x000028#24 8 v ∧ t = { s with status := s.status.w1c v }) ∨ StatusEffect s t := by
  cases i with
  | regRead addr n => cases hexec; exact .inr (statusEffect_memRead addr n)
  | regWrite addr n v =>
    cases hexec
    obtain ⟨rfl, rfl, hrun⟩ | heffect := statusEffect_memWrite (s := s) addr n v
    · exact .inl ⟨v, rfl, hrun⟩
    · exact .inr heffect
  | aBeat w => cases hexec; exact .inr (.inl (onlySets_analysisBeat w))
  | pBeat w => cases hexec; exact .inr (.inl (onlySets_playbackBeat w))
  | nop => cases hexec; exact .inr (statusEffect_runCommand .nop)
  | configure fs chm1 => cases hexec; exact .inr (statusEffect_runCommand (.configure fs chm1))
  | aReset => cases hexec; exact .inr (statusEffect_runCommand .aReset)
  | aFinalize => cases hexec; exact .inr (statusEffect_runCommand .aFinalize)
  | dSetTarget => cases hexec; exact .inr (statusEffect_runCommand .dSetTarget)
  | dFlush => cases hexec; exact .inr (statusEffect_runCommand .dFlush)
  | dReset => cases hexec; exact .inr (statusEffect_runCommand .dReset)

end Effects

/-- Settles O21: the write of STATUS and an operation that only sets sticky bits keep ERRCODE. -/
theorem errorsArePrecise : Obligations.ErrorsArePrecise := by
  intro i s t hexec hne
  obtain ⟨v, -, rfl⟩ | ⟨hcode, -⟩ | hrecord := exec_status_cases hexec
  · exact absurd rfl hne
  · exact absurd hcode hne
  · exact hrecord

/-- Settles O22: recording an error sets its class bit and keeps the others. -/
theorem stickyBitsStay : Obligations.StickyBitsStay := by
  intro i s t hexec hwrite b hset
  obtain ⟨v, hi, -⟩ | ⟨-, hkeep⟩ | ⟨e, hrecord⟩ := exec_status_cases hexec
  · exact absurd hi (hwrite v)
  · exact hkeep b hset
  · have hstatus : t.status = (raiseError e s).status := (congrArg State.status hrecord :)
    rw [hstatus, raiseError_get, hset, Bool.or_true]

end Sys2Proof.Machine
end

section
/-! The decoder and the encoder invert each other (30_encoding.md R51 to R55, R62), and a command written to CMD is the
command (45_control.md R99). -/

namespace Sys2Proof.Machine

/-! ### The fields of a command word (R51 to R53) -/

@[simp] theorem rsvOf_encodeCommand (c : Command) : rsvOf (encodeCommand c) = 0#32 := by
  unfold rsvOf encodeCommand
  simp (disch := decide) only [BitVec.extractLsb'_append_eq_of_le, BitVec.extractLsb'_eq_self, Nat.reduceSub]

@[simp] theorem operandsOf_encodeCommand (c : Command) : operandsOf (encodeCommand c) = c.operands := by
  unfold operandsOf encodeCommand
  simp (disch := decide) only [BitVec.extractLsb'_append_eq_of_le, BitVec.extractLsb'_append_eq_right, Nat.sub_self]

@[simp] theorem opcOf_encodeCommand (c : Command) : opcOf (encodeCommand c) = c.opc :=
  BitVec.extractLsb'_append_eq_right

/-- OPERANDS of a format C word are its FS and CHM1. -/
theorem fsOf_append_chm1Of (cw : Word) : fsOf cw ++ chm1Of cw = operandsOf cw :=
  BitVec.extractLsb'_append_extractLsb'_eq_extractLsb' (show 12 = 8 + 4 from rfl)

/-- The OPERANDS of a format C word determine its FS and CHM1. -/
theorem fsOf_chm1Of_of_operands {cw : Word} {fs : BitVec 20} {chm1 : BitVec 4} (h : operandsOf cw = fs ++ chm1) :
    fsOf cw = fs ∧ chm1Of cw = chm1 := by
  rw [← fsOf_append_chm1Of] at h
  constructor
  · simpa only [BitVec.extractLsb'_append_eq_left] using congrArg (BitVec.extractLsb' 4 20) h
  · simpa only [BitVec.extractLsb'_append_eq_right] using congrArg (BitVec.extractLsb' 0 4) h

/-! ### Command words -/

theorem operands_of_formatZ {opc : BitVec 8} {c : Command} (h : formatZ opc = some c) : c.operands = 0#24 := by
  unfold formatZ at h
  split_ifs at h <;> cases h <;> rfl

theorem decodeCommand_encodeCommand (c : Command) : decodeCommand (encodeCommand c) = .ok c := by
  have hopc := opcOf_encodeCommand c
  have hrsv := rsvOf_encodeCommand c
  have hoperands := operandsOf_encodeCommand c
  cases c with
  | configure fs chm1 =>
    obtain ⟨hfs, hchm1⟩ := fsOf_chm1Of_of_operands hoperands
    rw [decodeCommand_of_configure hopc, if_pos hrsv, hfs, hchm1]
  | nop | aReset | aFinalize | dSetTarget | dFlush | dReset =>
    rw [decodeCommand_of_formatZ (by rw [hopc]; rfl), if_pos ⟨hrsv, hoperands⟩]

/-- The three fields that the decoder accepts are those of the command's word. -/
theorem encodeCommand_of_decodeCommand {cw : Word} {c : Command} (h : decodeCommand cw = .ok c) :
    encodeCommand c = cw := by
  have hfields : opcOf cw = c.opc ∧ rsvOf cw = 0#32 ∧ operandsOf cw = c.operands := by
    by_cases hlisted : opcOf cw ∈ opcodes
    · obtain hopc | ⟨c', hz⟩ := (mem_opcodes_iff _).mp hlisted
      · rw [decodeCommand_of_configure hopc] at h
        split_ifs at h with hrsv
        cases h
        exact ⟨hopc, hrsv, (fsOf_append_chm1Of cw).symm⟩
      · rw [decodeCommand_of_formatZ hz] at h
        split_ifs at h with hzero
        obtain ⟨hrsv, hoperands⟩ := hzero
        cases h
        exact ⟨(opc_of_formatZ hz).symm, hrsv, hoperands.trans (operands_of_formatZ hz).symm⟩
    · exact nomatch (decodeCommand_of_unlisted hlisted).symm.trans h
  obtain ⟨hopc, hrsv, hoperands⟩ := hfields
  rw [encodeCommand, ← hopc, ← hrsv, ← hoperands, fields_append]

/-! ### Host events -/

theorem encode_toInstr (c : Command) : encode c.toInstr = commandEvent c := by
  cases c <;> rfl

theorem wf_toInstr (c : Command) : c.toInstr.wf = true := by
  cases c <;> rfl

/-- A register write is ill formed exactly when DISPATCH would run a command for it. -/
theorem wf_regWrite_iff (addr : Addr) (n : Nat) (v : Word) :
    (Instr.regWrite addr n v).wf = true ↔ ¬ (addr = cmdAddr ∧ n = 8 ∧ ∃ c, decodeCommand v = .ok c) := by
  have hword : isCommandWord v = true ↔ ∃ c, decodeCommand v = .ok c :=
    ⟨decodeCommand_of_isCommandWord, fun ⟨_, hok⟩ => isCommandWord_of_decodeCommand hok⟩
  rw [← hword]
  simp [Instr.wf, or_assoc, imp_iff_not_or]

theorem decode_command_write {v : Word} {c : Command} (h : decodeCommand v = .ok c) :
    decode (.busWrite cmdAddr 8 v) = .ok c.toInstr := by
  simp only [decode, and_self, if_true, h]

theorem decode_regWrite_of_wf {addr : Addr} {n : Nat} {v : Word} (hwf : (Instr.regWrite addr n v).wf = true) :
    decode (.busWrite addr n v) = .ok (.regWrite addr n v) := by
  rw [wf_regWrite_iff] at hwf
  by_cases hcmd : addr = cmdAddr ∧ n = 8
  · obtain ⟨rfl, rfl⟩ := hcmd
    cases hv : decodeCommand v with
    | ok c => exact absurd ⟨rfl, rfl, c, hv⟩ hwf
    | error r => simp only [decode, and_self, if_true, hv]
  · simp only [decode, if_neg hcmd]

theorem decode_encode_toInstr (c : Command) : decode (encode c.toInstr) = .ok c.toInstr := by
  rw [encode_toInstr]
  exact decode_command_write (decodeCommand_encodeCommand c)

/-- Settles O1: a command comes back from its word, and a well-formed register write holds no command's word. -/
theorem decodeInvertsEncode : Obligations.DecodeInvertsEncode := by
  intro i hwf
  cases i with
  | regRead addr n => rfl
  | regWrite addr n v => exact decode_regWrite_of_wf hwf
  | aBeat w => rfl
  | pBeat w => rfl
  | nop => exact decode_encode_toInstr .nop
  | configure fs chm1 => exact decode_encode_toInstr (.configure fs chm1)
  | aReset => exact decode_encode_toInstr .aReset
  | aFinalize => exact decode_encode_toInstr .aFinalize
  | dSetTarget => exact decode_encode_toInstr .dSetTarget
  | dFlush => exact decode_encode_toInstr .dFlush
  | dReset => exact decode_encode_toInstr .dReset

/-- Settles O2: a bus write is a well-formed register write, or the write of a command's own word to CMD. -/
theorem encodeInvertsDecode : Obligations.EncodeInvertsDecode := by
  intro e i hdecode
  cases e with
  | busRead addr n => cases hdecode; exact ⟨rfl, rfl⟩
  | busWrite addr n v =>
    by_cases hwf : (Instr.regWrite addr n v).wf = true
    · cases (decode_regWrite_of_wf hwf).symm.trans hdecode
      exact ⟨rfl, hwf⟩
    · rw [wf_regWrite_iff, not_not] at hwf
      obtain ⟨rfl, rfl, c, hv⟩ := hwf
      cases (decode_command_write hv).symm.trans hdecode
      rw [encode_toInstr, commandEvent, encodeCommand_of_decodeCommand hv]
      exact ⟨rfl, wf_toInstr c⟩
  | beatA w => cases hdecode; exact ⟨rfl, rfl⟩
  | beatP w => cases hdecode; exact ⟨rfl, rfl⟩
  | take => cases hdecode
  | hardReset => cases hdecode

/-- Settles O10: the word decodes to its command, which DISPATCH runs. -/
theorem commandWriteIsCommand : Obligations.CommandWriteIsCommand := fun c s =>
  (exec_regWrite_cmd_of_ok (decodeCommand_encodeCommand c)).trans (exec_toInstr c s).symm

/-- Settles O4: the accepted words are the encodings of their commands, and each rejected word fails a check of its
own. -/
theorem writtenWordsDecode : Obligations.WrittenWordsDecode :=
  ⟨decodeCommand_encodeCommand .nop, decodeCommand_encodeCommand (.configure 48000#20 1#4),
    decodeCommand_encodeCommand (.configure 8000#20 0#4), decodeCommand_encodeCommand .aReset,
    decodeCommand_encodeCommand .aFinalize, decodeCommand_encodeCommand .dSetTarget,
    decodeCommand_encodeCommand .dFlush, decodeCommand_encodeCommand .dReset,
    decodeCommand_of_unlisted (by decide), decodeCommand_of_unlisted (by decide),
    decodeCommand_of_reserved (by decide) (by decide), decodeCommand_of_reserved (by decide) (by decide)⟩

end Sys2Proof.Machine
end

section
/-! Hardware reset (70_reset_and_hazards.md R120), that KWLD never halts (93_implementation_defined.md section 1), and
what the bus answers to an access it rejects (20_memory.md R39, R40, R43). -/

namespace Sys2Proof.Machine

/-! ### Hardware reset (R120) -/

theorem step_of_hardReset {s : State} {rest : List HostEvent} (h : s.events = .hardReset :: rest) :
    step s = .next (hardwareReset { s with events := rest }) := by
  rw [step, h]
  rfl

theorem FilterState.word_zero (k : Nat) : FilterState.zero.word k = 0#64 := by
  unfold FilterState.word
  split_ifs <;> rfl

theorem readPlace_filter_hardwareReset (s : State) (c k : Nat) : readPlace (hardwareReset s) (.filter c k) = 0#64 := by
  have hfilter : (hardwareReset s).ana.filter = List.replicate s.build.chMax FilterState.zero := rfl
  rw [readPlace, hfilter, List.getD_eq_getElem?_getD, List.getElem?_getD_replicate_default_eq, FilterState.word_zero]

theorem readPlace_blk_hardwareReset (s : State) (i : Nat) : readPlace (hardwareReset s) (.blk i) = 0#64 := by
  have hcount : (hardwareReset s).ana.nblk = 0 := rfl
  rw [readPlace, hcount, if_neg (Nat.not_lt_zero i)]

theorem irq_hardwareReset (s : State) : irq (hardwareReset s) = false := rfl

/-- With no target ACTIVE is 0, whatever the gain. -/
theorem statusWord_hardwareReset (s : State) : statusWord (hardwareReset s) = 0#64 := by
  have hstatus : (hardwareReset s).status = Status.reset := rfl
  rw [statusWord, active_of_no_target rfl, hstatus]
  decide

/-- The registers whose reset column in 10_state.md R18 is 0. -/
def zeroAtReset : List Reg :=
  [.ctrl, .irqEn, .status, .cmd, .cfgFs, .cfgCh, .blockSize, .hopSize, .rampFrames, .aFrames, .aNblk, .aNemit, .pFrames,
    .aPart, .pPart, .hpAlpha, .bqB0, .bqB1, .bqB2, .bqA1, .bqA2, .atkCoef, .relCoef, .resNabs, .resNrel, .resGated,
    .dRemain]

theorem readReg_hardwareReset_of_zeroAtReset (s : State) : ∀ r ∈ zeroAtReset, readReg (hardwareReset s) r = 0#64 := by
  have hreads : zeroAtReset.map (readReg (hardwareReset s)) =
      [0#64, 0#64, statusWord (hardwareReset s)] ++ List.replicate 24 0#64 := rfl
  rw [statusWord_hardwareReset] at hreads
  exact List.forall_mem_map.mp (List.eq_replicate_iff (n := 27).mp hreads).2

/-- Settles O7: each register's reset value is a field of the reset state; the windows read their empty stores. -/
theorem hardwareResetValues : Obligations.HardwareResetValues := fun _ _ hevents =>
  ⟨_, step_of_hardReset hevents, readReg_hardwareReset_of_zeroAtReset _,
    rfl, rfl, rfl, rfl, rfl, rfl, rfl, rfl, rfl, rfl, rfl, rfl, rfl, rfl, rfl,
    readPlace_filter_hardwareReset _, readPlace_blk_hardwareReset _,
    List.length_replicate, rfl, rfl, rfl, rfl, irq_hardwareReset _⟩

/-- Settles O56: the default build is a legal one. -/
theorem resetSatisfiesInvariant : Obligations.ResetSatisfiesInvariant :=
  ⟨fun _ => inv_resetOf, inv_resetOf (by decide)⟩

/-! ### Every step has a next state -/

theorem exists_exec_eq_next (i : Instr) (s : State) : ∃ t, exec i s = .next t := by
  cases i <;> exact ⟨_, rfl⟩

theorem exists_step_eq_next (s : State) : ∃ t, step s = .next t := by
  obtain ⟨-, hrun⟩ | ⟨-, rest, i, -, -, hrun⟩ | ⟨rest, -, hrun⟩ | ⟨rest, -, hrun⟩ := step_cases s
  · exact ⟨_, hrun⟩
  · rw [hrun]
    exact exists_exec_eq_next i _
  · exact ⟨_, hrun⟩
  · exact ⟨_, hrun⟩

theorem run_succ_of_step {k : Nat} {s t : State} (h : step s = .next t) :
    Host.Core.run core (k + 1) s = Host.Core.run core k t := by
  have hstep : core.step s = .next t := h
  simp only [Host.Core.run, hstep]

/-- Settles O8, by induction on the number of steps. -/
theorem machineNeverStops : Obligations.MachineNeverStops := by
  intro k
  induction k with
  | zero => exact fun s => ⟨s, rfl⟩
  | succ k ih =>
    intro s
    obtain ⟨s', hstep⟩ := exists_step_eq_next s
    rw [run_succ_of_step hstep]
    exact ih s'

/-! ### Bus errors (R38, R39, R40, R43) -/

section BusErrors

variable {p : Config.Params} {addr : Addr} {n : Nat} {e : Err}

/-- Outside the register file and both windows nothing is mapped. -/
theorem placeAt_eq_none {a : Nat} (hreg : ¬ a < 0x150) (hfilter : ¬ (0x800 ≤ a ∧ a < 0x800 + 32 * p.chMax))
    (hblk : ¬ (0x100000 ≤ a ∧ a < 0x100000 + 8 * p.blkDepth)) : placeAt p a = none := by
  unfold placeAt filterBase blkBase
  rw [if_neg hreg]
  split_ifs with hgap hpage hchannel hgap' hentry
  · rfl
  · omega
  · rfl
  · rfl
  · omega
  · rfl

theorem busCheck_of_size (hn : n ≠ 8) : busCheck p addr n = .error .busSize := if_pos hn

theorem busCheck_of_misaligned (halign : addr.toNat % 8 ≠ 0) : busCheck p addr 8 = .error .busMisaligned := by
  rw [busCheck, if_neg (not_not.mpr rfl), if_pos halign]

theorem busCheck_of_unmapped (halign : addr.toNat % 8 = 0) (hplace : placeAt p addr.toNat = none) :
    busCheck p addr 8 = .error .busUnmapped := by
  rw [busCheck, if_neg (not_not.mpr rfl), if_neg (not_not.mpr halign), hplace]

theorem exec_regRead_of_error {s : State} (h : busCheck s.build addr n = .error e) :
    exec (.regRead addr n) s = .next { raiseError e s with busResp := some ⟨0#64, false⟩ } := by
  simp only [exec, execRegRead, memRead, h, State.respond]

theorem exec_regWrite_of_error {s : State} (h : busCheck s.build addr n = .error e) (v : Word) :
    exec (.regWrite addr n v) s = .next (raiseError e s) := by
  simp only [exec, execRegWrite, memWrite, h]

end BusErrors

/-- Settles O14: the three classes of rejected accesses are the three checks of the bus, in their order. -/
theorem busErrors : Obligations.BusErrors := by
  intro s addr n v _ e hclass
  have hcheck : busCheck s.build addr n = .error e := by
    obtain ⟨hn, rfl⟩ | ⟨rfl, halign, rfl⟩ | ⟨rfl, halign, hreg, hfilter, hblk, rfl⟩ := hclass
    · exact busCheck_of_size hn
    · exact busCheck_of_misaligned halign
    · exact busCheck_of_unmapped halign (placeAt_eq_none hreg hfilter hblk)
  exact ⟨exec_regRead_of_error hcheck, exec_regWrite_of_error hcheck v⟩

end Sys2Proof.Machine
end
